-- ==== Sys2Proof/Word.lean ====
section
/-! DEFINITION. The word types: a device register is 8 bits, a host register and a command word are 32 bits (R6). -/

namespace Sys2Proof

/-- A device register's value (R6, R50). -/
abbrev Byte := BitVec 8

/-- A host register's value, or a command word (R6, R80). -/
abbrev Word := BitVec 32

/-- A device register address, always below 0x80 (R50). -/
abbrev RegAddr := BitVec 7

end Sys2Proof
end

