-- ==== Sys2Proof/Config.lean ====
section
/-! DEFINITION. The build parameters of R6, and the free values: what the spec leaves open and nothing constrains. -/

namespace Sys2Proof

/-- Which transport the block drives (R2, R3). -/
inductive Transport where
  | framed
  | addressed
  deriving DecidableEq, Repr

/-- `E_native`: the native error values a primitive may return (R6): every value, or those of a list.
A native error is a number; NATIVE_ERR keeps its low bits (R214, log entry 20). -/
inductive NativeSet where
  | any
  | only (l : List Nat)
  deriving DecidableEq, Repr

/-- Whether a native error value is in the set. -/
def NativeSet.has : NativeSet → Nat → Bool
  | .any, _ => true
  | .only l, e => l.contains e

/-- The build parameters (R6). No command and no host access changes one. -/
structure Config where
  /-- TRANSPORT -/
  transport : Transport
  /-- DEV_ADDR, the device address on the ADDRESSED bus -/
  devAddr : BitVec 7
  /-- T_SETTLE_US, the settle delay of the FRAMED bus in microseconds -/
  tSettleUs : Nat
  /-- MAX_BURST, the size of the read buffer in bytes -/
  maxBurst : Nat
  /-- NATIVE_ERR_W, the width of the captured native error -/
  nativeErrW : Nat
  /-- E_native -/
  eNative : NativeSet
  deriving DecidableEq, Repr

/-- The ranges R6 gives the parameters. -/
abbrev Config.wf (c : Config) : Prop :=
  1 ≤ c.tSettleUs ∧ 14 ≤ c.maxBurst ∧ c.maxBurst ≤ 32 ∧ 1 ≤ c.nativeErrW ∧ c.nativeErrW ≤ 32

/-- The build that `State.reset` stands for: MAX_BURST and NATIVE_ERR_W as R6 gives them; the parameters R6 calls
OPEN are a DESIGN CHOICE (log entry 1). -/
def Config.standard : Config :=
  { transport := .framed, devAddr := 0, tSettleUs := 1, maxBurst := 16, nativeErrW := 32, eNative := .any }

/-- The k-th free byte drawn: any value (R34, R39, R55). -/
opaque Config.freeByte : Nat → Byte

/-- The value of the k-th host read, where that read is of RDATA while BUSY: any value (R34). -/
opaque Config.freeWord : Nat → Word

end Sys2Proof
end

