-- ==== Sys2Proof/Syntax.lean ====
section
/-! DEFINITION. The four commands (R85, opcode_table.json): one constructor per row. -/

namespace Sys2Proof

/-- A command and its operands (R82). -/
inductive Instr where
  /-- `WRITE reg, v` (R130) -/
  | write (reg : RegAddr) (v : Byte)
  /-- `READ reg` (R133) -/
  | read (reg : RegAddr)
  /-- `READS reg, n`: n is the burst length (R136) -/
  | reads (reg : RegAddr) (n : Nat)
  /-- `SETF reg, off, width, v` (R150) -/
  | setf (reg : RegAddr) (off width : Nat) (v : Byte)
  deriving DecidableEq, Repr

/-- The device register a command names. -/
def Instr.reg : Instr → RegAddr
  | .write r _ => r
  | .read r => r
  | .reads r _ => r
  | .setf r _ _ _ => r

end Sys2Proof
end

