-- ==== Sys2Proof/WellFormed.lean ====
section
/-! DEFINITION. Which operand values a command may have (R84, R86, R90): MAX_BURST is a parameter of the build. -/

namespace Sys2Proof

/-- The operand ranges: `n ≤ MAX_BURST` (R86 item 5); a width of 1 to 8 (R82) and `off + width ≤ 8` (R86 item 6). -/
def Instr.wf (maxBurst : Nat) : Instr → Bool
  | .write _ _ => true
  | .read _ => true
  | .reads _ n => n ≤ maxBurst
  | .setf _ off width _ => 1 ≤ width && off + width ≤ 8

end Sys2Proof
end

