-- ==== Sys2Proof/Decode.lean ====
section
/-! DEFINITION. The decoder of R84, total on every 32-bit word and refusing by name; then the encoder, from the
field table of R81; then the opcode map of R85 as data. -/

namespace Sys2Proof

/-! ### Fields (R81) -/

def opField (w : Word) : BitVec 4 := w.extractLsb' 28 4
def rsv0Field (w : Word) : BitVec 1 := w.extractLsb' 27 1
def regField (w : Word) : RegAddr := w.extractLsb' 20 7
def offField (w : Word) : BitVec 3 := w.extractLsb' 17 3
def wm1Field (w : Word) : BitVec 3 := w.extractLsb' 14 3
def rsv1Field (w : Word) : BitVec 6 := w.extractLsb' 8 6
def dataField (w : Word) : Byte := w.extractLsb' 0 8

/-- Why a word is no command: the cases of R86, in its order. -/
inductive IllegalWord where
  /-- item 1: OP is 0x0 or in 0x5–0xF -/
  | reservedOp
  /-- item 2: RSV0 or RSV1 is not 0 -/
  | reservedBits
  /-- item 3: WRITE, READ or READS with OFF or WM1 not 0 -/
  | strayField
  /-- item 4: READ with DATA not 0 -/
  | strayData
  /-- item 5: READS with DATA above MAX_BURST -/
  | burstTooLong
  /-- item 6: SETF with OFF + WM1 + 1 above 8 -/
  | fieldTooWide
  deriving DecidableEq, Repr

/-- `decode` of R84, in its order of checks. -/
def decode (maxBurst : Nat) (w : Word) : Except IllegalWord Instr :=
  if rsv0Field w ≠ 0 ∨ rsv1Field w ≠ 0 then .error .reservedBits
  else if opField w = 0x1 then
    if offField w ≠ 0 ∨ wm1Field w ≠ 0 then .error .strayField
    else .ok (.write (regField w) (dataField w))
  else if opField w = 0x2 then
    if offField w ≠ 0 ∨ wm1Field w ≠ 0 then .error .strayField
    else if dataField w ≠ 0 then .error .strayData
    else .ok (.read (regField w))
  else if opField w = 0x3 then
    if offField w ≠ 0 ∨ wm1Field w ≠ 0 then .error .strayField
    else if maxBurst < (dataField w).toNat then .error .burstTooLong
    else .ok (.reads (regField w) (dataField w).toNat)
  else if opField w = 0x4 then
    if 8 < (offField w).toNat + (wm1Field w).toNat + 1 then .error .fieldTooWide
    else .ok (.setf (regField w) (offField w).toNat ((wm1Field w).toNat + 1) (dataField w))
  else .error .reservedOp

/-- A word from its fields (R81); the reserved fields are 0. -/
def assembleWord (op : BitVec 4) (reg : RegAddr) (off wm1 : BitVec 3) (data : Byte) : Word :=
  (op ++ (0 : BitVec 1) ++ reg ++ off ++ wm1 ++ (0 : BitVec 6) ++ data : BitVec 32)

/-- The word of a command (R81, R85). -/
def encode : Instr → Word
  | .write reg v => assembleWord 0x1 reg 0 0 v
  | .read reg => assembleWord 0x2 reg 0 0 0
  | .reads reg n => assembleWord 0x3 reg 0 0 (BitVec.ofNat 8 n)
  | .setf reg off width v => assembleWord 0x4 reg (BitVec.ofNat 3 off) (BitVec.ofNat 3 (width - 1)) v

/-- What the decoder reads from a table word. The word is one host register write, so there is no byte order to
lay out (R80); MAX_BURST is the standard build's 16 (log entry 26). -/
def decodeTableWord (nbits w : Nat) : Option Instr :=
  if nbits ≤ 32 ∧ w < 2 ^ nbits then
    match decode Config.standard.maxBurst (BitVec.ofNat 32 w) with
    | .ok i => some i
    | .error _ => none
  else none

/-! ### The opcode map of R85 -/

/-- One row of the opcode map: the fixed bits and their values. -/
structure OpRow where
  matchBits : Word
  mask : Word
  deriving DecidableEq, Repr

def rowWrite : OpRow := ⟨0x10000000, 0xF80FFF00⟩
def rowRead : OpRow := ⟨0x20000000, 0xF80FFFFF⟩
def rowReads : OpRow := ⟨0x30000000, 0xF80FFF00⟩
def rowSetf : OpRow := ⟨0x40000000, 0xF8003F00⟩

/-- The row's fixed bits of a word have the row's values. -/
def OpRow.fits (r : OpRow) (w : Word) : Bool := w &&& r.mask = r.matchBits

end Sys2Proof
end

