-- ==== Sys2Proof/Machine/State.lean ====
section
/-! DEFINITION. The machine's state as plain data: the block's own state (R22, R23), the reference device (R54), and
what stands around the block (events to come, trace, draws). The reasons a step can stop. `State.reset` (R39). -/

namespace Sys2Proof.Machine

/-! ### The block's parts -/

/-- `ctl` (R22). -/
inductive Ctl where
  | idle
  | busy
  deriving DecidableEq, Repr

/-- The kind of transaction in flight: the READ or WRITE phase of R22, for every command. -/
inductive Phase where
  | read
  | write
  deriving DecidableEq, Repr

/-- The steps of R106 (FRAMED) and R110 (ADDRESSED). -/
inductive TxnStep where
  | fAssert
  | fSettle1
  | fSend
  | fExch
  | fRelease
  | fSettle2
  | aXfer
  deriving DecidableEq, Repr

/-- ERRKIND (R29). -/
inductive ErrKind where
  | none
  | send
  | exchange
  | chipSelect
  | bus
  | illegal
  deriving DecidableEq, Repr

/-- The STATUS fields of R25; every other bit reads 0. -/
structure Status where
  busy : Bool
  done : Bool
  err : Bool
  errkind : ErrKind
  ovr : Bool
  deriving DecidableEq, Repr

/-! ### The transport's interface (R100) -/

/-- A transport primitive with its arguments (R100). -/
inductive Prim where
  | assertCs
  | releaseCs
  | send (bytes : List Byte)
  | exchange (bytes : List Byte)
  | delayUs (t : Nat)
  | addrSend (a : BitVec 7) (bytes : List Byte)
  | addrSendRecv (a : BitVec 7) (bytes : List Byte) (n : Nat)
  deriving DecidableEq, Repr

/-- What a primitive returned: Ok with the bytes received (none for a primitive that receives nothing), or a native
error (R100). -/
inductive Reply where
  | ok (received : List Byte)
  | err (e : Nat)
  deriving DecidableEq, Repr

/-- One entry of the trace: a primitive the block called and its result (R100, R113); no result where block reset
abandoned the call before it returned (R241). -/
structure PhyEvent where
  prim : Prim
  reply : Option Reply
  deriving DecidableEq, Repr

/-! ### The outside -/

/-- How the transport answers the primitive in flight. -/
inductive Answer where
  /-- Ok, and any bytes received are those of the reference device (R54) -/
  | ok
  /-- Ok with these bytes: the device as an oracle (R52) -/
  | okBytes (received : List Byte)
  /-- Err(e) -/
  | err (e : Nat)
  deriving DecidableEq, Repr

/-- One thing the outside does (R7). The order of the list `State.inputs` is the order in which the agents move. -/
inductive Event where
  /-- the host writes `w` at a window offset, with an access of `width` bits (R24, R56) -/
  | hostWrite (width : Nat) (off : BitVec 6) (w : Word)
  /-- the host reads at a window offset, with an access of `width` bits (R56) -/
  | hostRead (width : Nat) (off : BitVec 6)
  /-- block reset (R240, R241) -/
  | blockReset
  /-- the transport returns from the primitive in flight (R100) -/
  | answer (a : Answer)
  /-- the clock ends the delay in flight (R7, R100) -/
  | clock
  /-- the device changes one of its registers by itself (R64, R247) -/
  | device (reg : RegAddr) (v : Byte)
  /-- another master drives this transport instance (R65) -/
  | otherMaster
  deriving DecidableEq, Repr

/-- What one host read returned (R113). -/
structure HostObs where
  width : Nat
  off : BitVec 6
  value : Word
  deriving DecidableEq, Repr

/-- Byte registers by address: strictly rising addresses, no entry that holds what an unlisted register reads as. -/
abbrev Memory := List Host.Cell

/-! ### Why a step stops -/

/-- The machine stops with a fault. -/
inductive Fault where
  /-- Raised by `fetch` when `ctl` is BUSY and `cmd` is no legal command word. No state with the
  invariant `Invariant` of Safety.lean is such a state, so no run reaches one. Safe. -/
  | corruptCommand
  deriving DecidableEq, Repr

/-- A command, or an input, to which the model gives no meaning. -/
inductive Refusal where
  /-- Raised by `exec` for an instruction that has no meaning yet. Safe. -/
  | notModelled (mnemonic : String)
  /-- Raised by `perform` when the transport's Ok carries another number of bytes than asked for (R119). Safe. -/
  | wrongLength
  /-- Raised by `perform` when a native error is not in `E_native` (R100). Safe. -/
  | foreignNativeError
  /-- Raised by `perform` and `land` when the transport or the clock returns from a primitive that is not in flight
  (R100, R102). Safe. -/
  | unaskedReturn
  /-- Raised by `land` when a second master drives the transport (R65, U1). Safe. -/
  | secondMaster
  deriving DecidableEq, Repr

/-! ### State -/

/-- The whole state. -/
structure State where
  /-- the build parameters (R6) -/
  cfg : Config
  /-- `ctl` (R22) -/
  ctl : Ctl
  /-- `cmd`: the command word accepted last (R22) -/
  cmd : Word
  /-- `step`: the primitive the controller performs next (R22) -/
  step : TxnStep
  /-- the phase part of `step` (R22) -/
  phase : Phase
  /-- `first_err`: the first error of the transaction in flight (R22) -/
  firstErr : Option (ErrKind × Nat)
  /-- the bytes received in the transaction in flight (R105, log entry 19) -/
  rx : List Byte
  /-- `rmw_latch` (R35) -/
  rmwLatch : Byte
  /-- `cs_asserted` (R36) -/
  csAsserted : Bool
  /-- STATUS (R25) -/
  status : Status
  /-- NATIVE_ERR (R31) -/
  nativeErr : Word
  /-- the read buffer behind RDATA0–RDATA7 (R33) -/
  rbuf : List Byte
  /-- the reference device's registers (R54); the real device answers through `inputs` (R52) -/
  dev : Memory
  /-- the physical chip-select line is as the block believes (R36, R251) -/
  lineKnown : Bool
  /-- what the outside does next, first event first (log entry 6) -/
  inputs : List Event
  /-- the calls that have returned or were abandoned, first one first (R113); `State.calls` adds the one in flight -/
  trace : List PhyEvent
  /-- what the host's reads returned, first one first (R113) -/
  hostLog : List HostObs
  /-- how many free bytes have been drawn (the model's own, log entry 5) -/
  freeCtr : Nat
  deriving DecidableEq, Repr

/-- STATUS after reset (R39). -/
def Status.reset : Status :=
  { busy := false, done := false, err := false, errkind := .none, ovr := false }

/-- The block right after reset with given parameters, and the two values R39 leaves unspecified given. -/
def State.resetWith (c : Config) (latch : Byte) (buf : List Byte) : State :=
  { cfg := c
    ctl := .idle
    cmd := 0
    step := .fAssert
    phase := .read
    firstErr := none
    rx := []
    rmwLatch := latch
    csAsserted := false
    status := Status.reset
    nativeErr := 0
    rbuf := buf
    dev := []
    lineKnown := true
    inputs := []
    trace := []
    hostLog := []
    freeCtr := 0 }

/-- The machine right after reset (R39, R240): the standard build; `rmw_latch` and RDATA are zero where R39 leaves
them unspecified (DESIGN CHOICE, log entries 3 and 4). -/
def State.reset : State :=
  State.resetWith Config.standard 0 (List.replicate Config.standard.maxBurst 0)

end Sys2Proof.Machine
end

