-- ==== Sys2Proof/Machine/Flags.lean ====
section
/-! DEFINITION. The status words: ERRKIND's codes (R29), STATUS (R25), CONFIG (R32), NATIVE_ERR (R31), and what
acceptance and completion do to the flags (R26 to R30, R213, R214). -/

namespace Sys2Proof.Machine

/-- The code of an error kind (R29). -/
def ErrKind.code : ErrKind → BitVec 3
  | .none => 0
  | .send => 1
  | .exchange => 2
  | .chipSelect => 3
  | .bus => 4
  | .illegal => 5

/-- The kinds a block with this transport may report (R29). -/
def ErrKind.allowed : Transport → ErrKind → Bool
  | _, .none => true
  | _, .illegal => true
  | .framed, .send => true
  | .framed, .exchange => true
  | .framed, .chipSelect => true
  | .framed, .bus => false
  | .addressed, .bus => true
  | .addressed, .send => false
  | .addressed, .exchange => false
  | .addressed, .chipSelect => false

/-- STATUS as the host reads it (R25): bits 3, 7 and 31:9 read 0. -/
def Status.toWord (s : Status) : Word :=
  ((0 : BitVec 23) ++ BitVec.ofBool s.ovr ++ (0 : BitVec 1) ++ s.errkind.code ++ (0 : BitVec 1) ++
    BitVec.ofBool s.err ++ BitVec.ofBool s.done ++ BitVec.ofBool s.busy : BitVec 32)

/-- CONFIG.TRANSPORT (R32). -/
def transportBit : Transport → BitVec 1
  | .framed => 0
  | .addressed => 1

/-- CONFIG as the host reads it (R32). -/
def configWord (c : Config) : Word :=
  let a : BitVec 7 := match c.transport with
    | .framed => 0
    | .addressed => c.devAddr
  ((0 : BitVec 10) ++ BitVec.ofNat 6 c.maxBurst ++ (0 : BitVec 1) ++ a ++ (0 : BitVec 7) ++
    transportBit c.transport : BitVec 32)

/-- `zext_32(trunc_W(native))` (R214). -/
def captureNative (nativeErrW native : Nat) : Word := BitVec.ofNat 32 (native % 2 ^ nativeErrW)

/-- The flags at acceptance: DONE, ERR, ERRKIND and OVR are cleared (R27, R28, R29, R30, R213). -/
def Status.cleared (s : Status) : Status :=
  { s with done := false, err := false, errkind := .none, ovr := false }

/-- The flags at completion: BUSY cleared, DONE set, ERR and ERRKIND from the result; OVR as it was (R214, R30). -/
def Status.completed (kind : ErrKind) (s : Status) : Status :=
  { s with busy := false, done := true, err := decide (kind ≠ .none), errkind := kind }

end Sys2Proof.Machine
end

