-- ==== Sys2Proof/Machine/Operands.lean ====
section
/-! DEFINITION. Operand forms: the address bytes of a transaction (R103, R104), the field mask and merge of SETF
(R151), and the byte-lane packing of RDATA (R33, R59). -/

namespace Sys2Proof.Machine

/-- The first byte of a write transaction: bit 7 is 0 (R103). -/
def writeAddrByte (reg : RegAddr) : Byte := reg.setWidth 8

/-- The first byte of a read transaction: bit 7 is the read flag, on both transports (R104). -/
def readAddrByte (reg : RegAddr) : Byte := reg.setWidth 8 ||| 0x80

/-- `fmask(w)`: w ones, computed exactly and then cut to a byte, so that `fmask 8` is 0xFF (R151, R152). -/
def fmask (w : Nat) : Byte := BitVec.ofNat 8 (2 ^ w - 1)

/-- `merge(old, off, w, v)` (R151). -/
def merge (old : Byte) (off w : Nat) (v : Byte) : Byte :=
  (old &&& ~~~(fmask w <<< off)) ||| ((v &&& fmask w) <<< off)

/-- The k-th register of a burst on the reference device, which wraps at 0x7F (R54). -/
def burstAddr (reg : RegAddr) (k : Nat) : RegAddr := reg + BitVec.ofNat 7 k

/-- `rbuf[0..len R − 1] <- R`, the rest unchanged (R34, R136). -/
def overwritePrefix (R buf : List Byte) : List Byte := R ++ buf.drop R.length

/-- Byte k of the read buffer as the host sees it: 0 at and beyond MAX_BURST (R33). -/
def bufByte (maxBurst : Nat) (buf : List Byte) (k : Nat) : Byte :=
  if k < maxBurst then buf.getD k 0 else 0

/-- RDATAj: `rbuf[4j]` in bits 7:0 up to `rbuf[4j+3]` in bits 31:24 (R33, R59). -/
def rdataWord (maxBurst : Nat) (buf : List Byte) (j : Nat) : Word :=
  (bufByte maxBurst buf (4 * j + 3) ++ bufByte maxBurst buf (4 * j + 2) ++
    bufByte maxBurst buf (4 * j + 1) ++ bufByte maxBurst buf (4 * j) : BitVec 32)

end Sys2Proof.Machine
end

