-- ==== Sys2Proof/Machine/Ops.lean ====
section
/-! DEFINITION. The shared operations: the reference device's registers, free draws, acceptance and completion
(the block's form of raising an error, R212 to R214), host accesses (R23, R24, R56) and block reset (R240, R241). -/

namespace Sys2Proof.Machine

/-! ### Registers of the reference device (R50, R54) -/

/-- What an unlisted register reads as (95_test_vectors.md, Conventions; log entry 9). -/
def Memory.unlisted : Byte := 0

/-- The value of the register at an address. -/
def Memory.read (a : Nat) : Memory → Byte
  | [] => Memory.unlisted
  | c :: m => if c.1 = a then c.2 else Memory.read a m

/-- The memory without an entry for an address. -/
def Memory.erase (a : Nat) : Memory → Memory
  | [] => []
  | c :: m => if c.1 = a then m else c :: Memory.erase a m

/-- The memory with an entry for an address, in its place. -/
def Memory.insert (a : Nat) (v : Byte) : Memory → Memory
  | [] => [(a, v)]
  | c :: m =>
    if a < c.1 then (a, v) :: c :: m
    else if a = c.1 then (a, v) :: m
    else c :: Memory.insert a v m

/-- A write keeps the canonical form: writing what an unlisted register reads as removes the entry. -/
def Memory.write (a : Nat) (v : Byte) (m : Memory) : Memory :=
  if v = Memory.unlisted then Memory.erase a m else Memory.insert a v m

/-- The canonical form: 7-bit addresses (R50), strictly rising, none with the unlisted value. -/
abbrev Memory.wf (m : Memory) : Prop :=
  m.Pairwise (fun c d => c.1 < d.1) ∧ ∀ c ∈ m, c.1 < 128 ∧ c.2 ≠ Memory.unlisted

/-- One register of the reference device. -/
def State.devRead (s : State) (a : RegAddr) : Byte := s.dev.read a.toNat

/-- A register of the reference device takes a value. -/
def State.devWrite (s : State) (a : RegAddr) (v : Byte) : State :=
  { s with dev := s.dev.write a.toNat v }

/-- The bytes of a burst on the reference device (R54). -/
def State.devBurst (s : State) (reg : RegAddr) (n : Nat) : List Byte :=
  (List.range n).map fun k => s.devRead (burstAddr reg k)

/-! ### Free values (log entry 5) -/

/-- The next n free bytes. -/
def State.freeBytes (s : State) (n : Nat) : List Byte :=
  (List.range n).map fun k => Config.freeByte (s.freeCtr + k)

/-- n free values have been used. -/
def State.drawn (s : State) (n : Nat) : State := { s with freeCtr := s.freeCtr + n }

/-- A register of the reference device takes an unspecified value (R55). -/
def State.devUnspecified (s : State) (a : RegAddr) : State :=
  (s.devWrite a (Config.freeByte s.freeCtr)).drawn 1

/-- `rbuf[0..n−1]` take unspecified values (R34). -/
def State.rbufUnspecified (s : State) (n : Nat) : State :=
  { s with rbuf := overwritePrefix (s.freeBytes n) s.rbuf, freeCtr := s.freeCtr + n }

/-! ### Acceptance and completion -/

/-- The record of the last command is cleared (R213). -/
def State.clearRecord (s : State) : State :=
  { s with status := s.status.cleared, nativeErr := 0 }

/-- A transaction begins: the first step of the transport in use, no error seen, nothing received (R105, R110). -/
def State.startTxn (ph : Phase) (s : State) : State :=
  let first := match s.cfg.transport with
    | .framed => TxnStep.fAssert
    | .addressed => TxnStep.aXfer
  { s with phase := ph, step := first, firstErr := none, rx := [] }

/-- A legal command starts: `cmd <- w; ctl <- BUSY; STATUS.BUSY <- 1` (R213, R26). -/
def State.startCommand (w : Word) (ph : Phase) (s : State) : State :=
  State.startTxn ph { s with cmd := w, ctl := .busy, status := { s.status with busy := true } }

/-- `complete(kind, native)` of R214: the command ends; `raise Error` is the same operation (R9). -/
def State.complete (kind : ErrKind) (native : Nat) (s : State) : State :=
  { s with
    ctl := .idle
    status := s.status.completed kind
    nativeErr := captureNative s.cfg.nativeErrW native }

/-- A CMD write while BUSY: the word is lost and OVR is set (R24, R30). -/
def State.overrun (s : State) : State := { s with status := { s.status with ovr := true } }

/-- Acceptance of a word that is no command (R213): nothing but the record changes. -/
def State.acceptIllegal (s : State) : State := s.clearRecord.complete .illegal 0

/-! ### Host accesses -/

/-- A defined host access: 32 bits at a multiple of 4 (R56). -/
def definedAccess (width : Nat) (off : BitVec 6) : Bool := width = 32 && off.toNat % 4 = 0

/-- A host write that reaches CMD; no other host write changes anything (R23, R24, R56). -/
def isCmdWrite (width : Nat) (off : BitVec 6) : Bool := definedAccess width off && off = 0

/-- The offset is one of RDATA0–RDATA7 (R23). -/
def isRdata (off : BitVec 6) : Bool := 0x20 ≤ off.toNat

/-- The register at a window offset, outside the time in which RDATA is unspecified (R23). -/
def State.register (s : State) (off : BitVec 6) : Word :=
  match off.toNat with
  | 0x04 => s.status.toWord
  | 0x08 => s.nativeErr
  | 0x0C => configWord s.cfg
  | k => if 0x20 ≤ k then rdataWord s.cfg.maxBurst s.rbuf ((k - 0x20) / 4) else 0

/-- What a host read returns (R23, R56); RDATA while BUSY is unspecified (R34): a free value of this read. -/
def State.hostValue (s : State) (width : Nat) (off : BitVec 6) : Word :=
  if definedAccess width off then
    if s.ctl = .busy ∧ isRdata off then Config.freeWord s.hostLog.length else s.register off
  else 0

/-- A host read: it changes no block state (R23); the model logs the value. -/
def State.hostRead (s : State) (width : Nat) (off : BitVec 6) : State :=
  { s with hostLog := s.hostLog ++ [⟨width, off, s.hostValue width off⟩] }

/-! ### Block reset -/

/-- Whether the chip-select line is still known after block reset. It is not after a reset with chip-select asserted
(R241). It is not after a reset while PhyAssert is in flight either: the spec leaves that case open (U16), and that the
line is then unknown is the model's choice, as is that an ADDRESSED bus is heard as usual (log entry 11). -/
def State.lineAtReset (s : State) : Bool :=
  s.lineKnown && !s.csAsserted && !decide (s.ctl = .busy ∧ s.step = .fAssert)

/-- The block's own state after reset, with free values where R39 says unspecified (R39, R240). -/
def State.resetBlock (s : State) : State :=
  { s with
    ctl := .idle
    cmd := 0
    step := .fAssert
    phase := .read
    firstErr := none
    rx := []
    rmwLatch := Config.freeByte s.freeCtr
    csAsserted := false
    status := Status.reset
    nativeErr := 0
    rbuf := (s.drawn 1).freeBytes s.cfg.maxBurst
    lineKnown := s.lineAtReset
    freeCtr := s.freeCtr + 1 + s.cfg.maxBurst }

/-- Block reset (R240, R241): no primitive is performed; a chip-select that was held stays as the transport holds
it; a register whose write was in flight holds any value (R241, U16). -/
def State.blockReset (s : State) : State :=
  if s.ctl = .busy ∧ s.phase = .write then (s.devUnspecified (regField s.cmd)).resetBlock
  else s.resetBlock

end Sys2Proof.Machine
end

