-- ==== Sys2Proof/Machine/Transport.lean ====
section
/-! DEFINITION. The transport sequencer (R100 to R119): which primitive comes next, what its return does, and how a
command runs from acceptance to completion. One sequencer serves all commands; a `Plan` says what a command adds. -/

namespace Sys2Proof.Machine

/-! ### What a command adds to the sequencer -/

/-- What a command asks of the sequencer. -/
structure Plan where
  /-- the device register it names -/
  reg : RegAddr
  /-- the kind of its first transaction -/
  first : Phase
  /-- how many bytes its read transaction receives -/
  count : Nat
  /-- the byte its write transaction sends -/
  payload : State → Byte
  /-- what follows a transaction that succeeded -/
  onOk : State → State
  /-- what follows a transaction that failed -/
  onErr : ErrKind → Nat → State → State

/-! ### The primitive in flight -/

/-- The bytes that open a transaction: `[reg, v]` or `[reg | 0x80]` (R103, R104, R106, R110). -/
def Plan.header (p : Plan) (s : State) : List Byte :=
  match s.phase with
  | .write => [writeAddrByte p.reg, p.payload s]
  | .read => [readAddrByte p.reg]

/-- The primitive of the step in flight, with its arguments (R105, R106, R110, R118). -/
def Plan.prim (p : Plan) (s : State) : Prim :=
  match s.step with
  | .fAssert => .assertCs
  | .fSettle1 => .delayUs s.cfg.tSettleUs
  | .fSend => .send (p.header s)
  | .fExch => .exchange (List.replicate p.count 0)
  | .fRelease => .releaseCs
  | .fSettle2 => .delayUs s.cfg.tSettleUs
  | .aXfer =>
    match s.phase with
    | .write => .addrSend s.cfg.devAddr (p.header s)
    | .read => .addrSendRecv s.cfg.devAddr (p.header s) p.count

/-- A wait, which the clock ends and which has no result (R100). -/
def Prim.isDelay : Prim → Bool
  | .delayUs _ => true
  | .assertCs => false
  | .releaseCs => false
  | .send _ => false
  | .exchange _ => false
  | .addrSend _ _ => false
  | .addrSendRecv _ _ _ => false

/-- How many bytes an Ok carries (R100, R119). -/
def Prim.expects : Prim → Nat
  | .exchange bytes => bytes.length
  | .addrSendRecv _ _ n => n
  | .assertCs => 0
  | .releaseCs => 0
  | .send _ => 0
  | .delayUs _ => 0
  | .addrSend _ _ => 0

/-! ### The return of a primitive -/

/-- A write transaction reached the reference device with this result: Ok stores the byte (R54); after an error the
register holds any value (R55); so it does where the frame is not known to be one (`sure` false, R251). -/
def State.heardWrite (sure : Bool) (bytes : List Byte) (rep : Reply) (s : State) : State :=
  match bytes with
  | [a, v] =>
    match rep, sure with
    | .ok _, true => s.devWrite (a.setWidth 7) v
    | .ok _, false => s.devUnspecified (a.setWidth 7)
    | .err _, _ => s.devUnspecified (a.setWidth 7)
  | _ => s

/-- What a primitive does outside the block: the reference device hears a write (R54, R55), and the chip-select line
is known again, or no longer (R36, R251, U13). R54 and R55 speak of a whole transaction: that a FRAMED write takes
effect when PhySend returns, before the release, is the model's choice (log entry 33). -/
def State.wire (pr : Prim) (rep : Reply) (s : State) : State :=
  match pr with
  | .assertCs =>
    match rep with
    | .ok _ => s
    | .err _ => { s with lineKnown := false }
  | .releaseCs =>
    match rep with
    | .ok _ => { s with lineKnown := true }
    | .err _ => { s with lineKnown := false }
  | .send bytes => s.heardWrite s.lineKnown bytes rep
  | .addrSend _ bytes => s.heardWrite true bytes rep
  | .exchange _ => s
  | .addrSendRecv _ _ _ => s
  | .delayUs _ => s

/-- The primitive and its result enter the trace (R113). -/
def State.record (pr : Prim) (rep : Reply) (s : State) : State :=
  { s with trace := s.trace ++ [⟨pr, some rep⟩] }

/-- A call that block reset abandons enters the trace without a result (R100, R241, log entry 8). -/
def State.abandon (pr : Prim) (s : State) : State := { s with trace := s.trace ++ [⟨pr, none⟩] }

/-- A primitive has returned. -/
def State.returned (pr : Prim) (rep : Reply) (s : State) : State := (s.wire pr rep).record pr rep

/-- Whether the reference device's answer to a read is its registers: on FRAMED only while the chip-select line is
known (R251). -/
def State.deviceHeard (s : State) : Bool := s.cfg.transport = .addressed || s.lineKnown

/-- What an answer of the transport means for the primitive in flight (R100, R119); `reg` is the register the
transaction names, for the reference device (R54). That a whole burst is read at this moment is the model's choice (log
entry 33). -/
def answered (reg : RegAddr) (pr : Prim) (a : Answer) (s : State) : Except Refusal (Reply × State) :=
  match a with
  | .err e =>
    if s.cfg.eNative.has e then .ok (.err e, s.returned pr (.err e)) else .error .foreignNativeError
  | .okBytes R =>
    if R.length = pr.expects then .ok (.ok R, s.returned pr (.ok R)) else .error .wrongLength
  | .ok =>
    if s.deviceHeard then
      let R := s.devBurst reg pr.expects
      .ok (.ok R, s.returned pr (.ok R))
    else
      let R := s.freeBytes pr.expects
      .ok (.ok R, (s.drawn pr.expects).returned pr (.ok R))

/-- One event taken as the return of a primitive: the clock returns from a wait, the transport from all else. -/
def perform (reg : RegAddr) (pr : Prim) (e : Event) (s : State) : Except Refusal (Reply × State) :=
  match e with
  | .clock => if pr.isDelay then .ok (.ok [], s.returned pr (.ok [])) else .error .unaskedReturn
  | .answer a => if pr.isDelay then .error .unaskedReturn else answered reg pr a s
  | .hostWrite _ _ _ => .error .unaskedReturn
  | .hostRead _ _ => .error .unaskedReturn
  | .blockReset => .error .unaskedReturn
  | .device _ _ => .error .unaskedReturn
  | .otherMaster => .error .unaskedReturn

/-! ### The controller -/

/-- The transaction has ended: the first error wins (R105, R107). -/
def Plan.endTxn (p : Plan) (s : State) : State :=
  match s.firstErr with
  | none => p.onOk s
  | some (k, e) => p.onErr k e s

/-- After a failed assert or release the register a write transaction named holds any value (R55, R252, U11). -/
def Plan.unsureWrite (p : Plan) (s : State) : State :=
  match s.phase with
  | .write => s.devUnspecified p.reg
  | .read => s

/-- The controller's move when the primitive in flight has returned (R105 to R107, R110). -/
def Plan.advance (p : Plan) (rep : Reply) (s : State) : State :=
  match s.step with
  | .fAssert =>
    match rep with
    | .ok _ => { s with csAsserted := true, step := .fSettle1 }
    | .err e => p.endTxn { p.unsureWrite s with firstErr := some (.chipSelect, e) }
  | .fSettle1 => { s with step := .fSend }
  | .fSend =>
    match rep with
    | .ok _ => { s with step := match s.phase with | .read => .fExch | .write => .fRelease }
    | .err e => { s with firstErr := some (.send, e), step := .fRelease }
  | .fExch =>
    match rep with
    | .ok R => { s with rx := R, step := .fRelease }
    | .err e => { s with firstErr := some (.exchange, e), step := .fRelease }
  | .fRelease =>
    match rep with
    | .ok _ => { s with csAsserted := false, step := .fSettle2 }
    | .err e =>
      { p.unsureWrite s with
        csAsserted := false
        firstErr := s.firstErr.or (some (.chipSelect, e))
        step := .fSettle2 }
  | .fSettle2 => p.endTxn s
  | .aXfer =>
    match rep with
    | .ok R => p.endTxn { s with rx := R }
    | .err e => p.endTxn { s with firstErr := some (.bus, e) }

/-! ### Events -/

/-- An event that is not the controller's and starts no command. -/
def bystander (e : Event) (s : State) : Host.Outcome State Fault Refusal :=
  match e with
  | .hostWrite _ _ _ => .next s
  | .hostRead width off => .next (s.hostRead width off)
  | .blockReset => .next s.blockReset
  | .device a v => .next (s.devWrite a v)
  | .otherMaster => .refused .secondMaster
  | .answer _ => .refused .unaskedReturn
  | .clock => .refused .unaskedReturn

/-- One event while a command is in flight: a return moves the controller; a CMD write is lost and sets OVR (R24);
block reset abandons the command (R241); anything else lands beside the command, which goes on unchanged. A return
brings the next call, or the completion, at once, so that every event finds a call in flight: the spec leaves the timing
of the controller's steps open (U29), and this is the model's choice (log entry 32). -/
def land (p : Plan) (e : Event) (s : State) : Host.Outcome State Fault Refusal :=
  match e with
  | .hostWrite width off _ => .next (if isCmdWrite width off then s.overrun else s)
  | .answer _ | .clock =>
    match perform p.reg (p.prim s) e s with
    | .ok (rep, s') => .next (p.advance rep s')
    | .error r => .refused r
  | .blockReset => .next (s.abandon (p.prim s)).blockReset
  | .hostRead _ _ | .device _ _ | .otherMaster => bystander e s

/-- The command in flight runs on through the events that come, until it is over or no event is left; then it is
still BUSY, and for ever if nothing more comes (R116). The list is the state's inputs. -/
def drive (p : Plan) : List Event → State → Host.Outcome State Fault Refusal
  | [], s => .next s
  | e :: es, s =>
    match s.ctl with
    | .idle => .next s
    | .busy =>
      match land p e { s with inputs := es } with
      | .next s' => drive p es s'
      | .fault f => .fault f
      | .refused r => .refused r

/-- Acceptance of a command while IDLE (R213); operands that no command word carries are those of an ILLEGAL word
(R86, log entry 16). -/
def beginCommand (i : Instr) (p : Plan) (s : State) : State :=
  if i.wf s.cfg.maxBurst then s.clearRecord.startCommand (encode i) p.first else s.acceptIllegal

/-- The host writes a command's word to CMD: while BUSY it is lost (R24); while IDLE it is accepted and runs. -/
def runCommand (i : Instr) (p : Plan) (s : State) : Host.Outcome State Fault Refusal :=
  match s.ctl with
  | .busy => .next s.overrun
  | .idle => drive p s.inputs (beginCommand i p s)

end Sys2Proof.Machine
end

