-- ==== Sys2Proof/Machine/BitField.lean ====
section
/-! DEFINITION. The bit-field read-modify-write command SETF (R150 to R162). -/

namespace Sys2Proof.Machine

/-- The end of SETF's read phase: the byte goes to the latch, and the write phase begins (R150, R35). -/
def State.toWritePhase (s : State) : State :=
  State.startTxn .write { s with rmwLatch := s.rx.headD 0 }

/-- SETF: a read transaction of one byte, then a write transaction of the merged byte, also when it equals the byte
read (R158); a failed read ends the command (R155). RDATA is not touched (R150). -/
def planSetf (reg : RegAddr) (off width : Nat) (v : Byte) : Plan :=
  { reg := reg
    first := .read
    count := 1
    payload := fun s => merge s.rmwLatch off width v
    onOk := fun s =>
      match s.phase with
      | .read => s.toWritePhase
      | .write => s.complete .none 0
    onErr := fun k e s => s.complete k e }

/-- SETF (R150). -/
def execSetf (reg : RegAddr) (off width : Nat) (v : Byte) (s : State) : Host.Outcome State Fault Refusal :=
  runCommand (.setf reg off width v) (planSetf reg off width v) s

end Sys2Proof.Machine
end

