-- ==== Sys2Proof/Machine/RegisterAccess.lean ====
section
/-! DEFINITION. The register access commands WRITE (R130), READ (R133) and READS (R136). -/

namespace Sys2Proof.Machine

/-- The received bytes go to the read buffer (R133, R136). -/
def State.storeReceived (s : State) : State := { s with rbuf := overwritePrefix s.rx s.rbuf }

/-- WRITE: one write transaction of `v`; RDATA is not touched (R130). -/
def planWrite (reg : RegAddr) (v : Byte) : Plan :=
  { reg := reg
    first := .write
    count := 0
    payload := fun _ => v
    onOk := fun s => s.complete .none 0
    onErr := fun k e s => s.complete k e }

/-- READ: one read transaction of one byte into `rbuf[0]`, which holds any value after an error (R133). -/
def planRead (reg : RegAddr) : Plan :=
  { reg := reg
    first := .read
    count := 1
    payload := fun _ => 0
    onOk := fun s => s.storeReceived.complete .none 0
    onErr := fun k e s => (s.rbufUnspecified 1).complete k e }

/-- READS: one read transaction of n bytes into `rbuf[0..n−1]`, which hold any values after an error (R136). -/
def planReads (reg : RegAddr) (n : Nat) : Plan :=
  { reg := reg
    first := .read
    count := n
    payload := fun _ => 0
    onOk := fun s => s.storeReceived.complete .none 0
    onErr := fun k e s => (s.rbufUnspecified n).complete k e }

/-- WRITE (R130). -/
def execWrite (reg : RegAddr) (v : Byte) (s : State) : Host.Outcome State Fault Refusal :=
  runCommand (.write reg v) (planWrite reg v) s

/-- READ (R133). -/
def execRead (reg : RegAddr) (s : State) : Host.Outcome State Fault Refusal :=
  runCommand (.read reg) (planRead reg) s

/-- READS (R136). -/
def execReads (reg : RegAddr) (n : Nat) (s : State) : Host.Outcome State Fault Refusal :=
  runCommand (.reads reg n) (planReads reg n) s

end Sys2Proof.Machine
end

