-- ==== Sys2Proof/Machine/Dispatch.lean ====
section
/-! DEFINITION. One arm per command: the meaning of a command word that the host writes to CMD. -/

namespace Sys2Proof.Machine

def exec (i : Instr) (s : State) : Host.Outcome State Fault Refusal :=
  match i with
  | .write reg v => Sys2Proof.Machine.execWrite reg v s
  | .read reg => Sys2Proof.Machine.execRead reg s
  | .reads reg n => Sys2Proof.Machine.execReads reg n s
  | .setf reg off width v => Sys2Proof.Machine.execSetf reg off width v s

end Sys2Proof.Machine
end

