-- ==== Sys2Proof/Machine/Fetch.lean ====
section
/-! DEFINITION. What the next event of the inputs means for the machine: the block fetches no instruction, its
command words come as host writes to CMD (R21, R24, R66). -/

namespace Sys2Proof.Machine

/-- What a command asks of the sequencer, for the command in flight. -/
def planOf : Instr → Plan
  | .write reg v => planWrite reg v
  | .read reg => planRead reg
  | .reads reg n => planReads reg n
  | .setf reg off width v => planSetf reg off width v

/-- Every call the block has made, each one event (R100): the trace, and the call in flight, which has no result yet. -/
def State.calls (s : State) : List PhyEvent :=
  match s.ctl with
  | .idle => s.trace
  | .busy =>
    match decode s.cfg.maxBurst s.cmd with
    | .ok i => s.trace ++ [⟨(planOf i).prim s, none⟩]
    | .error _ => s.trace

/-- What the next event is. -/
inductive Fetched where
  /-- no event: nothing moves -/
  | wait
  /-- the host writes a legal command word to CMD of the idle block; the state has the event taken -/
  | command (i : Instr) (s : State)
  /-- any other event, with what comes of it -/
  | moved (o : Host.Outcome State Fault Refusal)

/-- The next event while the block is IDLE (R24, R84, R213). -/
def fetchIdle (e : Event) (s : State) : Fetched :=
  match e with
  | .hostWrite width off w =>
    if isCmdWrite width off then
      match decode s.cfg.maxBurst w with
      | .ok i => .command i s
      | .error _ => .moved (.next s.acceptIllegal)
    else .moved (bystander e s)
  | .hostRead _ _ => .moved (bystander e s)
  | .blockReset => .moved (bystander e s)
  | .device _ _ => .moved (bystander e s)
  | .otherMaster => .moved (bystander e s)
  | .answer _ => .moved (bystander e s)
  | .clock => .moved (bystander e s)

/-- The next event while a command is in flight. -/
def fetchBusy (e : Event) (s : State) : Fetched :=
  match decode s.cfg.maxBurst s.cmd with
  | .ok i => .moved (land (planOf i) e s)
  | .error _ => .moved (.fault .corruptCommand)

/-- Take the next event. -/
def fetch (s : State) : Fetched :=
  match s.inputs with
  | [] => .wait
  | e :: es =>
    match s.ctl with
    | .idle => fetchIdle e { s with inputs := es }
    | .busy => fetchBusy e { s with inputs := es }

/-- The machine one event at a time: an accepted command only begins. `step` runs it on through the events that are
there; Obligations state that the two agree. -/
def microStep (s : State) : Host.Outcome State Fault Refusal :=
  match fetch s with
  | .wait => .next s
  | .command i s' => .next (beginCommand i (planOf i) s')
  | .moved o => o

/-- `k` micro steps. -/
def microRun : Nat → State → Host.Outcome State Fault Refusal
  | 0, s => .next s
  | k + 1, s =>
    match microStep s with
    | .next s' => microRun k s'
    | .fault f => .fault f
    | .refused r => .refused r

/-! ### A command word with its returns -/

/-- The returns of a transaction whose every primitive answers Ok (R108, R109, R111, R112). -/
def okTxn (t : Transport) (ph : Phase) : List Event :=
  match t, ph with
  | .framed, .write => [.answer .ok, .clock, .answer .ok, .answer .ok, .clock]
  | .framed, .read => [.answer .ok, .clock, .answer .ok, .answer .ok, .answer .ok, .clock]
  | .addressed, .write => [.answer .ok]
  | .addressed, .read => [.answer .ok]

/-- The returns of a command whose every primitive answers Ok. -/
def okReturns (t : Transport) (i : Instr) : List Event :=
  match i with
  | .write _ _ => okTxn t .write
  | .read _ => okTxn t .read
  | .reads _ _ => okTxn t .read
  | .setf _ _ _ _ => okTxn t .read ++ okTxn t .write

/-- The host writes one word to CMD, and the transport answers Ok to all that the word asks for. -/
def cmdEvents (c : Config) (w : Word) : List Event :=
  .hostWrite 32 0 w ::
    match decode c.maxBurst w with
    | .ok i => okReturns c.transport i
    | .error _ => []

end Sys2Proof.Machine
end

