-- ==== Sys2Proof/Machine/Step.lean ====
section
/-! DEFINITION. One step: the next event of the inputs. A command the host writes to the idle block runs on, through
the events that are there, until it completes (log entry 7). -/

namespace Sys2Proof.Machine

/-- One step. With no event the block waits, IDLE or BUSY (R116, R240). -/
def step (s : State) : Host.Outcome State Fault Refusal :=
  match fetch s with
  | .wait => .next s
  | .command i s' => exec i s'
  | .moved o => o

/-- The next step runs the command word `w`: the block is IDLE, and its next events are the host's write of the word
to CMD and the all-Ok returns of the primitives the word asks for (log entry 6). -/
def State.withFetchWord (s : State) (nbits w : Nat) : State :=
  { s with
    ctl := .idle
    status := { s.status with busy := false }
    inputs := cmdEvents s.cfg (BitVec.ofNat 32 (w % 2 ^ nbits)) ++ s.inputs }

end Sys2Proof.Machine
end

