-- ==== Sys2Proof/Machine/Asm.lean ====
section
/-! DEFINITION. The assembler of R90 and the pseudo-instructions of R91: one line of text to a command, or a refusal.
`WAIT_MS` is a line of a host program and no command (R10). -/

namespace Sys2Proof

/-- A pseudo-instruction (R91). -/
inductive Pseudo where
  | setbit (reg : RegAddr) (bit : Nat)
  | clrbit (reg : RegAddr) (bit : Nat)
  | putbit (reg : RegAddr) (bit : Nat) (b : Bool)
  | writef (reg : RegAddr) (v : Byte)
  deriving DecidableEq, Repr

/-- One line of a host program (R10, R90). -/
inductive AsmLine where
  | command (i : Instr)
  | waitMs (n : Nat)
  | blank
  deriving DecidableEq, Repr

namespace Machine

/-- The expansion of a pseudo-instruction (R91). -/
def expandPseudo : Pseudo → Instr
  | .setbit reg bit => .setf reg bit 1 1
  | .clrbit reg bit => .setf reg bit 1 0
  | .putbit reg bit b => .setf reg bit 1 (if b then 1 else 0)
  | .writef reg v => .setf reg 0 8 v

namespace Asm

def isBlank (c : Char) : Bool := c = ' ' || c = '\t'

/-- The text without blanks at its two ends. -/
def trim (l : List Char) : List Char := ((l.dropWhile isBlank).reverse.dropWhile isBlank).reverse

/-- The text up to a comment (R90). -/
def uncomment (l : List Char) : List Char := l.takeWhile (· ≠ ';')

/-- The pieces between commas. -/
def splitCommas : List Char → List (List Char)
  | [] => [[]]
  | c :: l =>
    match splitCommas l with
    | [] => [[]]
    | piece :: rest => if c = ',' then [] :: piece :: rest else (c :: piece) :: rest

/-- The value of a digit, hexadecimal digits in either case. -/
def digitValue (c : Char) : Option Nat :=
  if '0' ≤ c ∧ c ≤ '9' then some (c.toNat - '0'.toNat)
  else if 'a' ≤ c ∧ c ≤ 'f' then some (c.toNat - 'a'.toNat + 10)
  else if 'A' ≤ c ∧ c ≤ 'F' then some (c.toNat - 'A'.toNat + 10)
  else none

/-- A number from its digits, most significant first. -/
def digits (base acc : Nat) : List Char → Option Nat
  | [] => some acc
  | c :: l =>
    match digitValue c with
    | some d => if d < base then digits base (acc * base + d) l else none
    | none => none

/-- An unsigned number, decimal or `0x` hexadecimal (R90). -/
def number : List Char → Option Nat
  | [] => none
  | ['0', 'x'] => none
  | '0' :: 'x' :: l => digits 16 0 l
  | l => digits 10 0 l

/-- The operands of a line. -/
def operands (l : List Char) : Option (List Nat) :=
  if trim l = [] then some [] else (splitCommas l).mapM fun piece => number (trim piece)

/-- A command whose operands are in range (R90): the assembler refuses every other. -/
def inRange (maxBurst : Nat) (reg v : Nat) (i : Instr) : Option AsmLine :=
  if reg ≤ 0x7F ∧ v ≤ 0xFF ∧ i.wf maxBurst then some (.command i) else none

/-- A mnemonic with its operands (R90, R91). -/
def assemble (maxBurst : Nat) (mnemonic : List Char) (ops : List Nat) : Option AsmLine :=
  if mnemonic = "WRITE".toList then
    match ops with
    | [r, v] => inRange maxBurst r v (.write (BitVec.ofNat 7 r) (BitVec.ofNat 8 v))
    | _ => none
  else if mnemonic = "READ".toList then
    match ops with
    | [r] => inRange maxBurst r 0 (.read (BitVec.ofNat 7 r))
    | _ => none
  else if mnemonic = "READS".toList then
    match ops with
    | [r, n] => inRange maxBurst r 0 (.reads (BitVec.ofNat 7 r) n)
    | _ => none
  else if mnemonic = "SETF".toList then
    match ops with
    | [r, off, w, v] => inRange maxBurst r v (.setf (BitVec.ofNat 7 r) off w (BitVec.ofNat 8 v))
    | _ => none
  else if mnemonic = "SETBIT".toList then
    match ops with
    | [r, b] => inRange maxBurst r 0 (expandPseudo (.setbit (BitVec.ofNat 7 r) b))
    | _ => none
  else if mnemonic = "CLRBIT".toList then
    match ops with
    | [r, b] => inRange maxBurst r 0 (expandPseudo (.clrbit (BitVec.ofNat 7 r) b))
    | _ => none
  else if mnemonic = "PUTBIT".toList then
    match ops with
    | [r, b, x] =>
      if x ≤ 1 then inRange maxBurst r 0 (expandPseudo (.putbit (BitVec.ofNat 7 r) b (x = 1))) else none
    | _ => none
  else if mnemonic = "WRITEF".toList then
    match ops with
    | [r, v] => inRange maxBurst r v (expandPseudo (.writef (BitVec.ofNat 7 r) (BitVec.ofNat 8 v)))
    | _ => none
  else if mnemonic = "WAIT_MS".toList then
    match ops with
    | [n] => some (.waitMs n)
    | _ => none
  else none

/-- One line of text: a comment is dropped, an empty line is blank, and a line the assembler refuses is `none`. -/
def parseLine (maxBurst : Nat) (line : List Char) : Option AsmLine :=
  let l := trim (uncomment line)
  if l = [] then some .blank
  else
    match operands (l.dropWhile (!isBlank ·)) with
    | some ops => assemble maxBurst (l.takeWhile (!isBlank ·)) ops
    | none => none

end Asm

end Machine

end Sys2Proof
end

