-- ==== Sys2Proof/Machine/Binary32.lean ====
section
/-! DEFINITION. IEEE 754 binary32 with round to nearest, ties to even (D39): the division and the addition of the
conversions of R188 and R190, on all operands. Finite results are exact and then rounded once; infinities, zeros and NaN
are as the format has them. -/

namespace Sys2Proof

/-- The sign and the payload of a NaN that an operation gives: the format leaves them open, so they are free (log entry
24). -/
opaque Config.freeNan : Word → Word → Word

namespace Machine.Binary32

def signBit (w : Word) : Bool := w.getLsbD 31
def expField (w : Word) : Nat := (w.extractLsb' 23 8).toNat
def fracField (w : Word) : Nat := (w.extractLsb' 0 23).toNat

def isFinite (w : Word) : Bool := expField w ≠ 255

def isNan (w : Word) : Bool := expField w = 255 && fracField w ≠ 0

def isInf (w : Word) : Bool := expField w = 255 && fracField w = 0

/-- The infinity of a sign. -/
def infinity (neg : Bool) : Word := BitVec.ofBool neg ++ (0x7F800000 : BitVec 31)

/-- The zero of a sign. -/
def zero (neg : Bool) : Word := BitVec.ofBool neg ++ (0 : BitVec 31)

/-- A quiet NaN: what an operation on these operands gives where it has no numeric result. -/
def nan (a b : Word) : Word := Config.freeNan a b ||| 0x7FC00000

/-- The magnitude of a finite value in units of 2^−149: a whole number, for subnormal and normal values alike. -/
def units (w : Word) : Nat :=
  if expField w = 0 then fracField w else (2 ^ 23 + fracField w) * 2 ^ (expField w - 1)

/-- The whole number nearest to `n / d`, ties to even. -/
def nearest (n d : Nat) : Nat :=
  let q := n / d
  let r := n % d
  if d < 2 * r ∨ (2 * r = d ∧ q % 2 = 1) then q + 1 else q

/-- The binary32 value nearest to `num / den` units of 2^−149, with a sign. The encoding grows with the magnitude, so
`m + e · 2^23` is the word of `m · 2^e` for a 24-bit `m`, also where rounding carries. -/
def round (neg : Bool) (num den : Nat) : Word :=
  let e := (num / den).log2 - 23
  let bits := nearest num (den * 2 ^ e) + e * 2 ^ 23
  let magnitude := if bits < 0x7F800000 then bits else 0x7F800000
  BitVec.ofBool neg ++ BitVec.ofNat 31 magnitude

/-- A whole number as binary32. -/
def ofInt (z : Int) : Word := round (decide (z < 0)) (z.natAbs * 2 ^ 149) 1

/-- `a / b`. There is no numeric result for NaN, ∞ / ∞ and 0 / 0. -/
def div (a b : Word) : Word :=
  let neg := signBit a != signBit b
  if isNan a || isNan b then nan a b
  else if isInf a then (if isInf b then nan a b else infinity neg)
  else if isInf b then zero neg
  else if units b = 0 then (if units a = 0 then nan a b else infinity neg)
  else round neg (units a * 2 ^ 149) (units b)

/-- The value of a finite word in units of 2^−149. -/
def signedUnits (w : Word) : Int := if signBit w then -(units w : Int) else units w

/-- `a + b`; an exact zero is +0 unless both operands are −0. There is no numeric result for NaN and for ∞ + −∞. -/
def add (a b : Word) : Word :=
  if isNan a || isNan b then nan a b
  else if isInf a then (if isInf b && signBit a != signBit b then nan a b else a)
  else if isInf b then b
  else
    let z := signedUnits a + signedUnits b
    round (if z = 0 then signBit a && signBit b else decide (z < 0)) z.natAbs 1

end Machine.Binary32

end Sys2Proof
end

