-- ==== Sys2Proof/Machine/Client.lean ====
section
/-! DEFINITION. The client operations of 43_client_operations.md: host programs over the block's commands (R170 to
R200). The host software's own state is no state of the block (R5, R40), so it stands in a `Handle` beside it; the
device's map and codes are parameters (R171, D34). -/

namespace Sys2Proof.Machine.Client

/-- The supported accelerometer ranges: 4, of which the spec names G2 (R189; the other names: log entry 29). -/
inductive AccelRange where
  | g2 | g4 | g8 | g16
  deriving DecidableEq, Repr

/-- The supported gyro ranges: 4, of which the spec names DPS250 (R189; the other names: log entry 29). -/
inductive GyroRange where
  | dps250 | dps500 | dps1000 | dps2000
  deriving DecidableEq, Repr

/-- The position of a range in its parameter lists. -/
def AccelRange.index : AccelRange → Fin 4
  | .g2 => 0
  | .g4 => 1
  | .g8 => 2
  | .g16 => 3

/-- The position of a range in its parameter lists. -/
def GyroRange.index : GyroRange → Fin 4
  | .dps250 => 0
  | .dps500 => 1
  | .dps1000 => 2
  | .dps2000 => 3

/-- The default of RANGE_SHIFT: the top 2 bits of the byte (R171, R185, C4, D35). -/
def rangeShiftDefault : Nat := 6

/-- The device parameters of R171. -/
structure Params where
  rWhoAmI : RegAddr
  rProductId : RegAddr
  rPwr1 : RegAddr
  bDeviceReset : Nat
  bSleep : Nat
  fClksel : Nat
  rSigpath : RegAddr
  fSigpathResets : Nat
  rConfig : RegAddr
  fDlpf : Nat
  rSmplrtDiv : RegAddr
  rUserCtrl : RegAddr
  bI2cIfDis : Nat
  bFifoBufEn : Nat
  rIntEnable : RegAddr
  /-- the bit of each interrupt kind -/
  bInt : List Nat
  rIntPinCfg : RegAddr
  /-- the bit of each pin option -/
  bPin : List Nat
  rFifoEn : RegAddr
  /-- the bit of each of the 8 stream flags -/
  bFifo : Vector Nat 8
  rFifoCountH : RegAddr
  rFifoCountL : RegAddr
  rAccelConfig : RegAddr
  rGyroConfig : RegAddr
  /-- RANGE_SHIFT, by default 6 (R171, D35) -/
  rangeShift : Nat := rangeShiftDefault
  rAccelXoutH : RegAddr
  /-- the code of each of the 7 clock sources -/
  clk : Vector (BitVec 3) 7
  acode : Vector (BitVec 2) 4
  gcode : Vector (BitVec 2) 4
  /-- binary32 scales (R188, R189) -/
  ascale : Vector Word 4
  gscale : Vector Word 4
  tempOffset : Word
  tempDiv : Word
  knownProductIds : List Byte
  expectedIdDefault : Byte
  deriving DecidableEq, Repr

/-- What the spec fixes of the parameters (R171, R182, R189): fields fit in a byte, the 8 stream bits are distinct,
ASCALE(G2) = 16384, GSCALE(DPS250) = 131, 0x68 is no known product id. RANGE_SHIFT is 6 by default and open (C4). The other
scales and the temperature constants are any binary32 words (D39). -/
abbrev Params.wf (p : Params) : Prop :=
  p.bDeviceReset < 8 ∧ p.bSleep < 8 ∧ p.fClksel + 3 ≤ 8 ∧ p.fSigpathResets + 3 ≤ 8 ∧ p.fDlpf + 3 ≤ 8 ∧
  p.bI2cIfDis < 8 ∧ p.bFifoBufEn < 8 ∧ (∀ b ∈ p.bInt, b < 8) ∧ (∀ b ∈ p.bPin, b < 8) ∧
  (∀ b ∈ p.bFifo.toList, b < 8) ∧ p.bFifo.toList.Nodup ∧ p.clk.toList.Nodup ∧
  p.ascale[0] = Binary32.ofInt 16384 ∧ p.gscale[0] = Binary32.ofInt 131 ∧ (0x68 : Byte) ∉ p.knownProductIds

/-- What the host did, in order. -/
inductive HostAct where
  | issued (i : Instr)
  | waited (ms : Nat)
  deriving DecidableEq, Repr

/-- The source's Device Handle (R170): the block and the host software's state. -/
structure Handle where
  block : State
  /-- `dlpf_enabled` -/
  dlpfEnabled : Bool
  /-- `expected_identity` -/
  expectedIdentity : Byte
  /-- the milliseconds the host still owes to a device reset in progress (R248) -/
  settleOwed : Nat
  /-- the commands and waits, first one first (R10) -/
  acts : List HostAct
  deriving DecidableEq, Repr

/-- The handle is created with no command (R191); `dlpf_enabled` begins false, `expected_identity` at its default
(R170). The spec does not say whether a reset wait may be running then (R248): that none is, so that a wait owed by a
handle that was freed does not carry over, is the model's choice (log entry 35). -/
def create (p : Params) (block : State) : Handle :=
  { block := block, dlpfEnabled := false, expectedIdentity := p.expectedIdDefault, settleOwed := 0, acts := [] }

/-- The caller overrides `expected_identity` "for non-default wiring" (R170). -/
def withExpectedIdentity (b : Byte) (h : Handle) : Handle := { h with expectedIdentity := b }

/-- `free()` gives the transport back with no command (R191). A reset wait still owed is dropped with the handle, which
is the model's choice (log entry 35). -/
def free (h : Handle) : State := h.block

/-- Why the host software refuses a call, with no command issued. -/
inductive CallRefusal where
  /-- `set_sample_rate(0)` (R178, U2) -/
  | rateZero
  /-- `set_sample_rate` above the base (R178, U3) -/
  | rateAboveBase
  /-- `set_dlpf` above 7 (R177) -/
  | dlpfAboveSeven
  /-- an interrupt kind or pin option that the parameters do not name -/
  | noSuchKind
  deriving DecidableEq, Repr

/-- How a client operation ends. -/
inductive Out (α : Type) where
  /-- it has its result -/
  | done (a : α) (h : Handle)
  /-- a command completed with ERR = 1: its kind and native error (R192) -/
  | error (kind : ErrKind) (native : Word) (h : Handle)
  /-- the host software refused the call -/
  | refused (r : CallRefusal) (h : Handle)
  /-- the block is still BUSY: a transport primitive has not returned (R116) -/
  | blocked (h : Handle)
  /-- a block reset abandoned the command (R241) -/
  | abandoned (h : Handle)
  /-- the machine stopped -/
  | stopped (f : Fault)
  /-- the model gives the inputs no meaning -/
  | noMeaning (r : Refusal)
  deriving DecidableEq, Repr

/-- One operation after another; the first that does not end in `done` ends the whole (R192). -/
def Out.bind {α β : Type} (x : Out α) (f : α → Handle → Out β) : Out β :=
  match x with
  | .done a h => f a h
  | .error k n h => .error k n h
  | .refused r h => .refused r h
  | .blocked h => .blocked h
  | .abandoned h => .abandoned h
  | .stopped f => .stopped f
  | .noMeaning r => .noMeaning r

/-- A host program takes a command that completed with an error as completed (R10): the error stands in STATUS and
NATIVE_ERR until the next command is accepted. A command that did not complete ends the program (log entry 28). -/
def Out.completed (x : Out Unit) : Out Unit :=
  match x with
  | .done _ h => .done () h
  | .error _ _ h => .done () h
  | .refused r h => .refused r h
  | .blocked h => .blocked h
  | .abandoned h => .abandoned h
  | .stopped f => .stopped f
  | .noMeaning r => .noMeaning r

/-! ### Commands and waits -/

/-- The bits a command asks to be set in its register. -/
def bitsSet : Instr → Byte
  | .write _ v => v
  | .setf _ off w v => (v &&& fmask w) <<< off
  | .read _ => 0
  | .reads _ _ => 0

/-- A primitive that opens a transaction (R105, R110). -/
def opensTxn : Prim → Bool
  | .assertCs => true
  | .addrSend _ _ => true
  | .addrSendRecv _ _ _ => true
  | .releaseCs => false
  | .send _ => false
  | .exchange _ => false
  | .delayUs _ => false

/-- Which of a command's transactions writes to the device: the first of WRITE, the second of SETF (R130, R154). -/
def writeTxn : Instr → Option Nat
  | .write _ _ => some 1
  | .setf _ _ _ _ => some 2
  | .read _ => none
  | .reads _ _ => none

/-- By the calls made between two states, the command has begun its write transaction. An ILLEGAL command (R86), one that
is lost while BUSY (R24) and a SETF whose read phase failed (R155) have not. -/
def beganWrite (i : Instr) (before after : State) : Bool :=
  match writeTxn i with
  | some n => n ≤ (after.calls.drop before.calls.length).countP fun c => opensTxn c.prim
  | none => false

/-- The device-reset write or the signal-path-reset write, after which 150 ms are owed (R174, R248). The spec names
R174's two SETFs only. That every WRITE or SETF whose operand sets such a bit is one, and a SETF of another field that
writes back a bit it read as 1 is none, is the model's choice (log entry 23). -/
def startsReset (p : Params) (i : Instr) : Bool :=
  (i.reg = p.rPwr1 && (bitsSet i).getLsbD p.bDeviceReset) ||
  (i.reg = p.rSigpath && (bitsSet i &&& (fmask 3 <<< p.fSigpathResets)) ≠ 0)

/-- The host's record after a command, which left the block in state `s`. A reset write makes 150 ms due, and a device
write inside a wait leaves its register free (R248), once the write transaction has begun; that it may end in an error
is the model's choice (log entry 23). -/
def issued (p : Params) (i : Instr) (s : State) (h : Handle) : Handle :=
  let wrote := beganWrite i h.block s
  { h with
    block := if wrote && h.settleOwed ≠ 0 then s.devUnspecified i.reg else s
    settleOwed := if wrote && startsReset p i then 150 else h.settleOwed
    acts := h.acts ++ [.issued i] }

/-- `issue(cmd)`: issue one command and wait for its completion; an error ends the operation (R192). The command is
written to CMD before every event that is left. The spec leaves open what comes between two commands of one operation
(R222, U29), and that nothing does is the model's choice (log entry 34): a foreign CMD write there is an overrun, and a
block reset there abandons the command. -/
def issue (p : Params) (i : Instr) (h : Handle) : Out Unit :=
  match exec i h.block with
  | .next s =>
    if s.ctl = .busy then .blocked (issued p i s h)
    else if s.status.done = false then .abandoned (issued p i s h)
    else if s.status.err then .error s.status.errkind s.nativeErr (issued p i s h)
    else .done () (issued p i s h)
  | .fault f => .stopped f
  | .refused r => .noMeaning r

/-- `WAIT_MS n` (R10). -/
def waitMs (n : Nat) (h : Handle) : Out Unit :=
  .done () { h with settleOwed := h.settleOwed - n, acts := h.acts ++ [.waited n] }

/-- `rbuf[k]` as the host sees it: it reads RDATA as the command left it, before every event that is left. The spec leaves
open what lands between the completion and the read (R222, U29), and that nothing does is the model's choice (log entry
34). -/
def bufferByte (h : Handle) (k : Nat) : Byte := bufByte h.block.cfg.maxBurst h.block.rbuf k

/-- A host program: its lines one after another, each command after the one before has completed, with or without an
error (R10). -/
def runProgram (p : Params) : List AsmLine → Handle → Out Unit
  | [], h => .done () h
  | .command i :: rest, h => (issue p i h).completed.bind fun _ h => runProgram p rest h
  | .waitMs n :: rest, h => (waitMs n h).bind fun _ h => runProgram p rest h
  | .blank :: rest, h => runProgram p rest h

/-! ### Identity and reset -/

/-- `product_id(b)`: the known id of an exact match, or unknown (R173). The spec does not say what KNOWN(b) is: that it
is the byte itself is the model's choice (log entry 30). -/
def productId (p : Params) (b : Byte) : Option Byte :=
  if p.knownProductIds.contains b then some b else none

/-- `identity_check()`: both registers are read, identity first (R172). -/
def identityCheck (p : Params) (h : Handle) : Out Bool :=
  (issue p (.read p.rWhoAmI) h).bind fun _ h =>
    let id := bufferByte h 0
    (issue p (.read p.rProductId) h).bind fun _ h =>
      .done (decide (id = h.expectedIdentity) && (productId p (bufferByte h 0)).isSome) h

/-- `reset(delay)`: device reset, 150 ms, the three signal-path resets together, 150 ms (R174). -/
def reset (p : Params) (h : Handle) : Out Unit :=
  (issue p (.setf p.rPwr1 p.bDeviceReset 1 1) h).bind fun _ h =>
    (waitMs 150 h).bind fun _ h =>
      (issue p (.setf p.rSigpath p.fSigpathResets 3 7) h).bind fun _ h => waitMs 150 h

/-! ### Single bit-field edits -/

/-- A one-bit field's value. -/
def bit (b : Bool) : Byte := if b then 1 else 0

/-- `set_sleep(b)` (R175). -/
def setSleep (p : Params) (b : Bool) (h : Handle) : Out Unit :=
  issue p (.setf p.rPwr1 p.bSleep 1 (bit b)) h

/-- `set_clock_source(c)` (R176). -/
def setClockSource (p : Params) (c : Fin 7) (h : Handle) : Out Unit :=
  issue p (.setf p.rPwr1 p.fClksel 3 (p.clk[c].setWidth 8)) h

/-- `set_dlpf(value)`: `dlpf_enabled` follows only a SETF that succeeded (R177). -/
def setDlpf (p : Params) (value : Nat) (h : Handle) : Out Unit :=
  if 7 < value then .refused .dlpfAboveSeven h
  else (issue p (.setf p.rConfig p.fDlpf 3 (BitVec.ofNat 8 value)) h).bind fun _ h =>
    .done () { h with dlpfEnabled := decide (0 < value ∧ value < 7) }

/-- The base rate of `set_sample_rate` (R178). -/
def rateBase (dlpfEnabled : Bool) : Nat := if dlpfEnabled then 1000 else 8000

/-- The divider `set_sample_rate` writes: `trunc_8(base / rate − 1)` (R178). -/
def rateDivider (base rate : Nat) : Byte := BitVec.ofNat 8 (base / rate - 1)

/-- `set_sample_rate(rate_hz)`: rate 0 and a rate above the base are refused with no command (R178). -/
def setSampleRate (p : Params) (rate : Nat) (h : Handle) : Out Unit :=
  if rate = 0 then .refused .rateZero h
  else if rateBase h.dlpfEnabled / rate = 0 then .refused .rateAboveBase h
  else issue p (.write p.rSmplrtDiv (rateDivider (rateBase h.dlpfEnabled) rate)) h

/-- `set_i2c_disable(b)` (R179). -/
def setI2cDisable (p : Params) (b : Bool) (h : Handle) : Out Unit :=
  issue p (.setf p.rUserCtrl p.bI2cIfDis 1 (bit b)) h

/-- `set_interrupt_enable(i, b)` (R180). -/
def setInterruptEnable (p : Params) (i : Nat) (b : Bool) (h : Handle) : Out Unit :=
  match p.bInt[i]? with
  | some k => issue p (.setf p.rIntEnable k 1 (bit b)) h
  | none => .refused .noSuchKind h

/-- `set_int_pin_config(o, b)` (R181). -/
def setIntPinConfig (p : Params) (o : Nat) (b : Bool) (h : Handle) : Out Unit :=
  match p.bPin[o]? with
  | some k => issue p (.setf p.rIntPinCfg k 1 (bit b)) h
  | none => .refused .noSuchKind h

/-! ### FIFO -/

/-- The byte of `enable_fifo`: the OR of the flags at their bits (R182). -/
def fifoByte (p : Params) (f : Vector Bool 8) : Byte :=
  (List.finRange 8).foldl (fun acc s => acc ||| (bit f[s] <<< p.bFifo[s])) 0

/-- `enable_fifo(f)`: a whole-register WRITE (R182). -/
def enableFifo (p : Params) (f : Vector Bool 8) (h : Handle) : Out Unit :=
  issue p (.write p.rFifoEn (fifoByte p f)) h

/-- `enable_fifo_buffer()`: a host-side read-modify-write (R183). -/
def enableFifoBuffer (p : Params) (h : Handle) : Out Unit :=
  (issue p (.read p.rUserCtrl) h).bind fun _ h =>
    issue p (.write p.rUserCtrl (bufferByte h 0 ||| (1 <<< p.bFifoBufEn))) h

/-- `get_fifo_counter()`: two READs, high byte first (R184). -/
def getFifoCounter (p : Params) (h : Handle) : Out (BitVec 16) :=
  (issue p (.read p.rFifoCountH) h).bind fun _ h =>
    let hi := bufferByte h 0
    (issue p (.read p.rFifoCountL) h).bind fun _ h => .done (hi ++ bufferByte h 0) h

/-! ### Ranges -/

/-- A range selector at RANGE_SHIFT, every other bit 0 (R185). -/
def rangeByte (p : Params) (code : BitVec 2) : Byte := BitVec.ofNat 8 (code.toNat * 2 ^ p.rangeShift)

/-- `set_accelerometer_range(r)` (R185). -/
def setAccelerometerRange (p : Params) (r : AccelRange) (h : Handle) : Out Unit :=
  issue p (.write p.rAccelConfig (rangeByte p p.acode[r.index])) h

/-- `set_gyro_range(r)` (R185). -/
def setGyroRange (p : Params) (r : GyroRange) (h : Handle) : Out Unit :=
  issue p (.write p.rGyroConfig (rangeByte p p.gcode[r.index])) h

/-! ### Sensor reads and conversion -/

/-- A sample: a big-endian signed 16-bit number, high byte first (R187). -/
def sample (hi lo : Byte) : Int := (hi ++ lo : BitVec 16).toInt

/-- The sample at a byte position of the read buffer (R186). -/
def sampleAt (h : Handle) (k : Nat) : Int := sample (bufferByte h k) (bufferByte h (k + 1))

/-- `raw / scale` in binary32 (R188). -/
def scaled (scale : Word) (raw : Int) : Word := Binary32.div (Binary32.ofInt raw) scale

/-- `TEMP_OFFSET + raw / TEMP_DIV` in binary32 (R190). -/
def temperature (p : Params) (raw : Int) : Word :=
  Binary32.add p.tempOffset (Binary32.div (Binary32.ofInt raw) p.tempDiv)

/-- Three axes as binary32 words. -/
structure Axes where
  x : Word
  y : Word
  z : Word
  deriving DecidableEq, Repr

/-- Three axes from six bytes of the read buffer (R186, R188). -/
def axesAt (h : Handle) (scale : Word) (k : Nat) : Axes :=
  { x := scaled scale (sampleAt h k)
    y := scaled scale (sampleAt h (k + 2))
    z := scaled scale (sampleAt h (k + 4)) }

/-- `read_acceleration()`: the range is the caller's (R186, R188, R250). -/
def readAcceleration (p : Params) (r : AccelRange) (h : Handle) : Out Axes :=
  (issue p (.reads p.rAccelXoutH 6) h).bind fun _ h => .done (axesAt h p.ascale[r.index] 0) h

/-- `read_temperature()` (R186, R190). A start address past 0x7F wraps: the spec says nothing of one (log entry 31). -/
def readTemperature (p : Params) (h : Handle) : Out Word :=
  (issue p (.reads (p.rAccelXoutH + 6) 2) h).bind fun _ h => .done (temperature p (sampleAt h 0)) h

/-- `read_gyro()` (R186, R188). A start address past 0x7F wraps: the spec says nothing of one (log entry 31). -/
def readGyro (p : Params) (r : GyroRange) (h : Handle) : Out Axes :=
  (issue p (.reads (p.rAccelXoutH + 8) 6) h).bind fun _ h => .done (axesAt h p.gscale[r.index] 0) h

/-- The seven readings of `read_all`. -/
structure Readings where
  accel : Axes
  temp : Word
  gyro : Axes
  deriving DecidableEq, Repr

/-- `read_all()`: one burst of 14 bytes: accelerometer, temperature, gyro (R186). -/
def readAll (p : Params) (ar : AccelRange) (gr : GyroRange) (h : Handle) : Out Readings :=
  (issue p (.reads p.rAccelXoutH 14) h).bind fun _ h =>
    .done
      { accel := axesAt h p.ascale[ar.index] 0
        temp := temperature p (sampleAt h 6)
        gyro := axesAt h p.gscale[gr.index] 8 } h

end Sys2Proof.Machine.Client
end

