-- ==== Sys2Proof/Machine/Pseudocode.lean ====
section
/-! DEFINITION. The spec's own procedures, written as it writes them (R105, R106, R110, R131, R132, R130, R133, R136,
R150, R213): a second, sequential reading of the same rules, beside the step-by-step controller of Transport.lean.
`exec` does not use it; Obligations state that the two agree. `none` means that a primitive has not returned, or
returned outside its interface. -/

namespace Sys2Proof.Machine.Pseudocode

/-- The result of a transaction. -/
inductive TxnResult where
  | ok (received : List Byte)
  | err (kind : ErrKind) (e : Nat)
  deriving DecidableEq, Repr

/-- One primitive: it is called, and the next event must be its return. -/
def call (reg : RegAddr) (pr : Prim) (s : State) : Option (Reply × State) :=
  match s.inputs with
  | [] => none
  | e :: es =>
    match perform reg pr e { s with inputs := es } with
    | .ok x => some x
    | .error _ => none

/-- The register of a write whose assert or release failed holds any value (R55). -/
def selectReturned (reg : RegAddr) (ph : Phase) (r2 : Reply) (s : State) : State :=
  match ph, r2 with
  | .write, .err _ => s.devUnspecified reg
  | .write, .ok _ => s
  | .read, _ => s

/-- The three last lines of FramedTxn: the first error wins (R105). -/
def firstError (res : TxnResult) (r2 : Reply) : TxnResult :=
  match res, r2 with
  | .err k e, _ => .err k e
  | .ok _, .err e2 => .err .chipSelect e2
  | .ok R, .ok _ => .ok R

/-- `FramedTxn(body)` (R105). -/
def framedTxn (reg : RegAddr) (ph : Phase) (body : State → Option (TxnResult × State)) (s : State) :
    Option (TxnResult × State) := do
  let (r, s) ← call reg .assertCs s
  match r with
  | .err e => return (.err .chipSelect e, selectReturned reg ph r s)
  | .ok _ =>
    let (_, s) ← call reg (.delayUs s.cfg.tSettleUs) { s with csAsserted := true }
    let (res, s) ← body s
    let (r2, s) ← call reg .releaseCs s
    let (_, s) ← call reg (.delayUs s.cfg.tSettleUs) { selectReturned reg ph r2 s with csAsserted := false }
    return (firstError res r2, s)

/-- `FramedWriteBody(reg, v)` (R106). -/
def framedWriteBody (reg : RegAddr) (v : Byte) (s : State) : Option (TxnResult × State) := do
  let (r, s) ← call reg (.send [writeAddrByte reg, v]) s
  match r with
  | .err e => return (.err .send e, s)
  | .ok _ => return (.ok [], s)

/-- `FramedReadBody(reg, n)` (R106). -/
def framedReadBody (reg : RegAddr) (n : Nat) (s : State) : Option (TxnResult × State) := do
  let (r, s) ← call reg (.send [readAddrByte reg]) s
  match r with
  | .err e => return (.err .send e, s)
  | .ok _ =>
    let (x, s) ← call reg (.exchange (List.replicate n 0)) s
    match x with
    | .err e => return (.err .exchange e, s)
    | .ok R => return (.ok R, s)

/-- `AddrWrite(reg, v)` (R110). -/
def addrWrite (reg : RegAddr) (v : Byte) (s : State) : Option (TxnResult × State) := do
  let (r, s) ← call reg (.addrSend s.cfg.devAddr [writeAddrByte reg, v]) s
  match r with
  | .err e => return (.err .bus e, s)
  | .ok _ => return (.ok [], s)

/-- `AddrRead(reg, n)` (R110). -/
def addrRead (reg : RegAddr) (n : Nat) (s : State) : Option (TxnResult × State) := do
  let (x, s) ← call reg (.addrSendRecv s.cfg.devAddr [readAddrByte reg] n) s
  match x with
  | .err e => return (.err .bus e, s)
  | .ok R => return (.ok R, s)

/-- `DoWrite(reg, v)` (R131). -/
def doWrite (reg : RegAddr) (v : Byte) (s : State) : Option (TxnResult × State) :=
  match s.cfg.transport with
  | .framed => framedTxn reg .write (framedWriteBody reg v) s
  | .addressed => addrWrite reg v s

/-- `DoRead(reg, n)` (R132). -/
def doRead (reg : RegAddr) (n : Nat) (s : State) : Option (TxnResult × State) :=
  match s.cfg.transport with
  | .framed => framedTxn reg .read (framedReadBody reg n) s
  | .addressed => addrRead reg n s

/-- `exec WRITE(reg, v)` (R130). -/
def runWrite (reg : RegAddr) (v : Byte) (s : State) : Option State := do
  let (res, s) ← doWrite reg v s
  match res with
  | .err k e => return s.complete k e
  | .ok _ => return s.complete .none 0

/-- `exec READS(reg, n)` (R136), and `exec READ(reg)` with n = 1 (R133). -/
def runReads (reg : RegAddr) (n : Nat) (s : State) : Option State := do
  let (res, s) ← doRead reg n s
  match res with
  | .ok R => return (State.complete .none 0 { s with rbuf := overwritePrefix R s.rbuf })
  | .err k e => return (s.rbufUnspecified n).complete k e

/-- `exec SETF(reg, off, w, v)` (R150). -/
def runSetf (reg : RegAddr) (off w : Nat) (v : Byte) (s : State) : Option State := do
  let (r, s) ← doRead reg 1 s
  match r with
  | .err k e => return s.complete k e
  | .ok R =>
    let latch := R.headD 0
    let (t, s) ← doWrite reg (merge latch off w v) { s with rmwLatch := latch }
    match t with
    | .err k e => return s.complete k e
    | .ok _ => return s.complete .none 0

/-- `run c` (R213). -/
def run (i : Instr) (s : State) : Option State :=
  match i with
  | .write reg v => runWrite reg v s
  | .read reg => runReads reg 1 s
  | .reads reg n => runReads reg n s
  | .setf reg off w v => runSetf reg off w v s

/-- `accept(w)` for a legal word (R213). -/
def accept (i : Instr) (s : State) : Option State :=
  let s := s.clearRecord
  run i { s with cmd := encode i, ctl := .busy, status := { s.status with busy := true } }

/-- The state without the controller's bookkeeping, which is not meaningful while IDLE (R39). -/
def settled (s : State) : State :=
  { s with step := .fAssert, phase := .read, firstErr := none, rx := [] }

end Sys2Proof.Machine.Pseudocode
end

