-- ==== Sys2Proof/Safety.lean ====
section
/-! DEFINITION. The terms claims are stated in: the invariant of the machine, the kinds of events, the shapes of a
trace, and what two runs must agree on. -/

namespace Sys2Proof.Machine

/-! ### Kinds of events -/

/-- A return of the transport or the clock. -/
def Event.isReturn : Event → Bool
  | .answer _ => true
  | .clock => true
  | .hostWrite _ _ _ => false
  | .hostRead _ _ => false
  | .blockReset => false
  | .device _ _ => false
  | .otherMaster => false

/-- An access of the host to the window. -/
def Event.isHostAccess : Event → Bool
  | .hostWrite _ _ _ => true
  | .hostRead _ _ => true
  | .answer _ => false
  | .clock => false
  | .blockReset => false
  | .device _ _ => false
  | .otherMaster => false

/-- Block reset. -/
def Event.isReset : Event → Bool
  | .blockReset => true
  | .hostWrite _ _ _ => false
  | .hostRead _ _ => false
  | .answer _ => false
  | .clock => false
  | .device _ _ => false
  | .otherMaster => false

/-- The device's own change of a register. -/
def Event.isDevice : Event → Bool
  | .device _ _ => true
  | .hostWrite _ _ _ => false
  | .hostRead _ _ => false
  | .answer _ => false
  | .clock => false
  | .blockReset => false
  | .otherMaster => false

/-! ### The invariant -/

/-- The phases a command's transactions have (R154, R138). -/
def hasPhase : Instr → Phase → Bool
  | .write _ _, .write => true
  | .write _ _, .read => false
  | .read _, .read => true
  | .read _, .write => false
  | .reads _ _, .read => true
  | .reads _ _, .write => false
  | .setf _ _ _ _, _ => true

/-- The steps of a transaction on a transport (R106, R110): F_EXCH in read bodies only. -/
def stepAllowed (t : Transport) (ph : Phase) (st : TxnStep) : Bool :=
  match t, st, ph with
  | .addressed, .aXfer, _ => true
  | .addressed, _, _ => false
  | .framed, .aXfer, _ => false
  | .framed, .fExch, .write => false
  | .framed, _, _ => true

/-- The steps during which chip-select is asserted (R36, R105). -/
def TxnStep.selected : TxnStep → Bool
  | .fSettle1 => true
  | .fSend => true
  | .fExch => true
  | .fRelease => true
  | .fAssert => false
  | .fSettle2 => false
  | .aXfer => false

/-- The steps after a transaction's body, at which an error or the received bytes may be held (R105). -/
def TxnStep.afterBody : TxnStep → Bool
  | .fRelease => true
  | .fSettle2 => true
  | .fAssert => false
  | .fSettle1 => false
  | .fSend => false
  | .fExch => false
  | .aXfer => false

/-- The kinds a FRAMED transaction's held error may have: EXCHANGE in a read transaction only (R107, R156). -/
def heldKind (ph : Phase) (k : ErrKind) : Bool :=
  match k, ph with
  | .send, _ => true
  | .chipSelect, _ => true
  | .exchange, .read => true
  | .exchange, .write => false
  | .none, _ => false
  | .bus, _ => false
  | .illegal, _ => false

/-- What holds of a command in flight. -/
structure InFlight (s : State) (i : Instr) : Prop where
  /-- `cmd` holds a legal command word (R22, R213) -/
  command : decode s.cfg.maxBurst s.cmd = .ok i
  /-- the phase is one the command has -/
  phase : hasPhase i s.phase = true
  /-- the step is one of the transport's -/
  step : stepAllowed s.cfg.transport s.phase s.step = true
  /-- chip-select is asserted from a successful assert to the release (R36) -/
  select : s.csAsserted = s.step.selected
  /-- no error is held before the body has ended -/
  noEarlyError : s.step.afterBody = false → s.firstErr = none
  /-- the kind of an error that is held -/
  errorKind : ∀ k e, s.firstErr = some (k, e) → heldKind s.phase k = true
  /-- a read transaction without error holds the bytes asked for -/
  received : s.step.afterBody = true → s.firstErr = none → s.phase = .read → s.rx.length = (planOf i).count

/-- The invariant of the machine. -/
structure Invariant (s : State) : Prop where
  /-- the parameters are in R6's ranges -/
  params : s.cfg.wf
  /-- STATUS.BUSY is 1 while `ctl` = BUSY (R25) -/
  busyFlag : s.status.busy = decide (s.ctl = .busy)
  /-- BUSY and DONE are never both 1 (R25) -/
  notBoth : ¬(s.status.busy = true ∧ s.status.done = true)
  /-- ERR = 1 exactly when ERRKIND is not NONE (R25) -/
  errFlag : s.status.err = decide (s.status.errkind ≠ .none)
  /-- an error kind stands only beside DONE (R27, R29) -/
  kindDone : s.status.errkind ≠ .none → s.status.done = true
  /-- the kind is one of the transport's (R29) -/
  kindAllowed : s.status.errkind.allowed s.cfg.transport = true
  /-- bits 31:NATIVE_ERR_W of NATIVE_ERR read 0 (R31) -/
  nativeWidth : s.nativeErr.toNat < 2 ^ s.cfg.nativeErrW
  /-- NATIVE_ERR is 0 with NONE and ILLEGAL (R31) -/
  nativeZero : s.status.errkind = .none ∨ s.status.errkind = .illegal → s.nativeErr = 0
  /-- the read buffer has MAX_BURST bytes (R33) -/
  buffer : s.rbuf.length = s.cfg.maxBurst
  /-- the reference device's registers are in canonical form -/
  device : s.dev.wf
  /-- no chip-select is asserted between transactions (R36) -/
  idleSelect : s.ctl = .idle → s.csAsserted = false
  /-- a command in flight -/
  inFlight : s.ctl = .busy → ∃ i, InFlight s i

/-! ### Shapes of traces -/

/-- The primitives a block with this transport may perform (R101). -/
def Prim.allowed (c : Config) : Prim → Bool
  | .assertCs => c.transport = .framed
  | .releaseCs => c.transport = .framed
  | .send _ => c.transport = .framed
  | .exchange _ => c.transport = .framed
  | .delayUs t => c.transport = .framed && t = c.tSettleUs
  | .addrSend a _ => c.transport = .addressed && a = c.devAddr
  | .addrSendRecv a _ _ => c.transport = .addressed && a = c.devAddr

/-- A primitive of a FRAMED transaction's body (R106). -/
def Prim.isBody : Prim → Bool
  | .send _ => true
  | .exchange _ => true
  | .assertCs => false
  | .releaseCs => false
  | .delayUs _ => false
  | .addrSend _ _ => false
  | .addrSendRecv _ _ _ => false

/-- One FRAMED transaction's trace (R113): a failed assert alone, or one bracket of chip-select with a settle delay
right after the assert and one right after the release. -/
inductive FramedShape (t : Nat) : List PhyEvent → Prop where
  | assertFailed (e : Nat) : FramedShape t [⟨.assertCs, some (.err e)⟩]
  | bracket (R : List Byte) (body : List PhyEvent) (r : Reply) (d₁ d₂ : Reply)
      (h : ∀ x ∈ body, x.prim.isBody = true) (ne : body ≠ []) :
      FramedShape t
        (⟨.assertCs, some (.ok R)⟩ :: ⟨.delayUs t, some d₁⟩ :: body ++ [⟨.releaseCs, some r⟩, ⟨.delayUs t, some d₂⟩])

/-- One ADDRESSED transaction's trace (R110): one primitive to the device address. -/
inductive AddressedShape (a : BitVec 7) : List PhyEvent → Prop where
  | send (bytes : List Byte) (r : Reply) : AddressedShape a [⟨.addrSend a bytes, some r⟩]
  | sendRecv (bytes : List Byte) (n : Nat) (r : Reply) : AddressedShape a [⟨.addrSendRecv a bytes n, some r⟩]

/-- One transaction's trace on the transport in use. -/
def TxnShape (c : Config) (tr : List PhyEvent) : Prop :=
  match c.transport with
  | .framed => FramedShape c.tSettleUs tr
  | .addressed => AddressedShape c.devAddr tr

/-- The two bytes `[reg, v]` of a write transaction (R106, R110). -/
def PhyEvent.written (x : PhyEvent) : Option (Byte × Byte) :=
  match x.prim with
  | .send [a, v] => some (a, v)
  | .addrSend _ [a, v] => some (a, v)
  | _ => none

/-! ### Agreement of runs -/

/-- An outcome with a change made to its next state. -/
def mapNext (f : State → State) (o : Host.Outcome State Fault Refusal) : Host.Outcome State Fault Refusal :=
  match o with
  | .next s => .next (f s)
  | .fault x => .fault x
  | .refused x => .refused x

/-- The state without the command word, which no host register shows (R24). -/
def State.withoutCmd (s : State) : State := { s with cmd := 0 }

/-- The state as it is with every host access taken out of the run: no reads logged, no overrun. -/
def State.withoutHost (log : List HostObs) (s : State) : State :=
  { s with
    inputs := s.inputs.filter (fun e => !e.isHostAccess)
    hostLog := log
    status := { s.status with ovr := false } }

/-- The state in which a command's transactions begin: accepted, with nothing performed yet (R213). -/
def accepted (i : Instr) (s : State) : State :=
  { s.clearRecord with
    cmd := encode i
    ctl := .busy
    status := { s.status.cleared with busy := true } }

/-- The answer `x` to a read of n bytes from `reg` brings these bytes: any bytes of the device (R52), or those of the
reference device (R54). -/
def brings (s : State) (reg : RegAddr) (n : Nat) (x : Answer) (R : List Byte) : Prop :=
  (x = .okBytes R ∧ R.length = n) ∨ (x = .ok ∧ s.deviceHeard = true ∧ R = s.devBurst reg n)

/-- The answer `x` to a primitive that receives nothing, and the reply it is; an error is one of `E_native`. -/
def replies (c : Config) (x : Answer) (r : Reply) : Prop :=
  (x = .ok ∧ r = .ok []) ∨ ∃ e, x = .err e ∧ c.eNative.has e = true ∧ r = .err e

/-- The first bytes a command sends: the read flag and register, or the register and its byte (R103, R104). -/
def firstHeader (i : Instr) (s : State) : List Byte :=
  if hasPhase i .read then [i.reg.setWidth 8 ||| 0x80] else [i.reg.setWidth 8, (planOf i).payload s]

/-- The one primitive of a command's first transaction on ADDRESSED (R110). -/
def firstTransfer (i : Instr) (s : State) : Prim :=
  if hasPhase i .read then .addrSendRecv s.cfg.devAddr (firstHeader i s) (planOf i).count
  else .addrSend s.cfg.devAddr (firstHeader i s)

/-- The returns of a read transaction of one byte in which every primitive answers Ok and the device sends `b`. -/
def okRead (t : Transport) (b : Byte) : List Event :=
  match t with
  | .framed => [.answer .ok, .clock, .answer .ok, .answer (.okBytes [b]), .answer .ok, .clock]
  | .addressed => [.answer (.okBytes [b])]

/-- What every command that completes leaves (R214, R216, R36): IDLE, DONE, the kind and the native error, no
chip-select; the inputs it did not use; the parameters, and what the host has read, as they were. -/
structure Completed (s t : State) (kind : ErrKind) (native : Nat) (rest : List Event) : Prop where
  ctl : t.ctl = .idle
  status : t.status = { busy := false, done := true, err := decide (kind ≠ .none), errkind := kind, ovr := false }
  nativeErr : t.nativeErr = captureNative s.cfg.nativeErrW native
  select : t.csAsserted = false
  cfg : t.cfg = s.cfg
  inputs : t.inputs = rest
  hostLog : t.hostLog = s.hostLog

end Sys2Proof.Machine
end

