-- ==== Sys2Proof/Certificates/Slice0/Obligations.lean ====
section
/-! DEFINITION. The statements for the provers. Each docstring names the rules of spec/ it rests on. -/

open Sys2Proof Sys2Proof.Machine

/-! ### Encoding (30_encoding.md) -/

/-- Decoding the word of a well-formed command gives the command back, for every operand value (R81, R84, R85).
A burst length has 8 bits, and MAX_BURST is at most 32 (R6). -/
def Obligations.DecodeOfEncodeIsTheCommand : Prop :=
  ∀ (mb : Nat) (i : Instr), mb ≤ 255 → i.wf mb = true → decode mb (encode i) = .ok i

/-- Every legal word is the word of the command it decodes to, and that command is well-formed (R81, R84). -/
def Obligations.EncodeOfDecodeIsTheWord : Prop :=
  ∀ (mb : Nat) (w : Word) (i : Instr), decode mb w = .ok i → encode i = w ∧ i.wf mb = true

/-- R86: a word is illegal exactly under its six conditions; an illegal word completes with ILLEGAL, makes no
transaction and changes no device register; word 0 is illegal. -/
def Obligations.IllegalWordsAndTheirEffect : Prop :=
  (∀ (mb : Nat) (w : Word),
    (∃ r, decode mb w = .error r) ↔
      ((opField w = 0 ∨ 5 ≤ (opField w).toNat) ∨
        (rsv0Field w ≠ 0 ∨ rsv1Field w ≠ 0) ∨
        ((opField w = 1 ∨ opField w = 2 ∨ opField w = 3) ∧ (offField w ≠ 0 ∨ wm1Field w ≠ 0)) ∨
        (opField w = 2 ∧ dataField w ≠ 0) ∨
        (opField w = 3 ∧ mb < (dataField w).toNat) ∨
        (opField w = 4 ∧ 8 < (offField w).toNat + (wm1Field w).toNat + 1))) ∧
  (∀ (s : State) (w : Word) (es : List Event),
    s.ctl = .idle → s.inputs = .hostWrite 32 0 w :: es → (∃ r, decode s.cfg.maxBurst w = .error r) →
      ∃ t, step s = .next t ∧ t.status.done = true ∧ t.status.errkind = .illegal ∧ t.trace = s.trace ∧
        t.dev = s.dev) ∧
  ∀ mb, ∃ r, decode mb 0 = .error r

/-- R85: the rows of the opcode map, with their extra conditions, are what the decoder decodes. -/
def Obligations.OpcodeMapRows : Prop :=
  ∀ (mb : Nat) (w : Word),
    ((∃ reg v, decode mb w = .ok (.write reg v)) ↔ rowWrite.fits w = true) ∧
    ((∃ reg, decode mb w = .ok (.read reg)) ↔ rowRead.fits w = true) ∧
    ((∃ reg n, decode mb w = .ok (.reads reg n)) ↔ rowReads.fits w = true ∧ (dataField w).toNat ≤ mb) ∧
    ((∃ reg off width v, decode mb w = .ok (.setf reg off width v)) ↔
      rowSetf.fits w = true ∧ (offField w).toNat + (wm1Field w).toNat + 1 ≤ 8)

/-- The operands of a decoded command are the fields of its word, unsigned; the width is WM1 + 1 (R81, R82). -/
def Obligations.DecodedOperandsAreTheWordsFields : Prop :=
  ∀ (mb : Nat) (w : Word) (i : Instr), decode mb w = .ok i →
    i.reg = w.extractLsb' 20 7 ∧
    match i with
    | .write _ v => opField w = 1 ∧ v = w.extractLsb' 0 8
    | .read _ => opField w = 2
    | .reads _ n => opField w = 3 ∧ n = (w.extractLsb' 0 8).toNat
    | .setf _ off width v =>
      opField w = 4 ∧ off = (w.extractLsb' 17 3).toNat ∧ width = (w.extractLsb' 14 3).toNat + 1 ∧
        v = w.extractLsb' 0 8

/-- R92: every worked example of the encoding: the assembly, its word, and the command the word decodes to; and the
illegal examples. -/
def Obligations.SpecWordsDecode : Prop :=
  (∀ x ∈ ([("WRITE 0x6B, 0x80", 0x16B00080, .write 0x6B 0x80), ("WRITE 0x19, 0xA5", 0x119000A5, .write 0x19 0xA5),
      ("READ 0x75", 0x27500000, .read 0x75), ("READ 0x19", 0x21900000, .read 0x19),
      ("READS 0x3B, 14", 0x33B0000E, .reads 0x3B 14), ("READS 0x3B, 6", 0x33B00006, .reads 0x3B 6),
      ("READS 0x10, 0", 0x31000000, .reads 0x10 0), ("SETF 0x1A, 0, 3, 3", 0x41A08003, .setf 0x1A 0 3 3),
      ("SETF 0x1A, 3, 3, 5", 0x41A68005, .setf 0x1A 3 3 5), ("SETF 0x6B, 7, 1, 1", 0x46BE0001, .setf 0x6B 7 1 1),
      ("SETBIT 0x6B, 7", 0x46BE0001, .setf 0x6B 7 1 1), ("SETF 0x6B, 6, 1, 0", 0x46BC0000, .setf 0x6B 6 1 0),
      ("CLRBIT 0x6B, 6", 0x46BC0000, .setf 0x6B 6 1 0), ("SETF 0x68, 0, 3, 7", 0x46808007, .setf 0x68 0 3 7),
      ("SETF 0x20, 0, 8, 0x5A", 0x4201C05A, .setf 0x20 0 8 0x5A), ("WRITEF 0x20, 0x5A", 0x4201C05A, .setf 0x20 0 8 0x5A),
      ("SETF 0x20, 2, 3, 5", 0x42048005, .setf 0x20 2 3 5)] : List (String × Word × Instr)),
    Asm.parseLine 16 x.1.toList = some (.command x.2.2) ∧ encode x.2.2 = x.2.1 ∧ decode 16 x.2.1 = .ok x.2.2) ∧
  decode 16 0x00000000 = .error .reservedOp ∧ decode 16 0x50000000 = .error .reservedOp ∧
  decode 16 0x18000000 = .error .reservedBits ∧ decode 16 0x21900001 = .error .strayData ∧
  decode 16 0x31000011 = .error .burstTooLong ∧ decode 16 0x46CC8001 = .error .fieldTooWide ∧
  decode 16 0x46CC4001 = .ok (.setf 0x6C 6 2 1)

/-- The assembler never emits an illegal word (R90). -/
def Obligations.AssemblerEmitsLegalWords : Prop :=
  ∀ (mb : Nat) (line : List Char) (i : Instr), mb ≤ 255 → Asm.parseLine mb line = some (.command i) →
    decode mb (encode i) = .ok i

/-! ### Steps -/

/-- A host write of a legal word to CMD of the idle block: the step is `exec` of the decoded command on the state with
that event taken. Nothing else is added: the block has no program counter (R21, R24). -/
def Obligations.StepRunsTheDecodedCommand : Prop :=
  ∀ (s : State) (w : Word) (es : List Event) (i : Instr),
    s.ctl = .idle → s.inputs = .hostWrite 32 0 w :: es → decode s.cfg.maxBurst w = .ok i →
      step s = exec i { s with inputs := es }

/-- R24: a host write to CMD is accepted while IDLE; while BUSY it is ignored, the command in flight goes on
unchanged, and OVR is set; CMD reads 0. -/
def Obligations.HostWriteToCmd : Prop :=
  (∀ (s : State) (w : Word) (es : List Event), s.inputs = .hostWrite 32 0 w :: es →
    (s.ctl = .idle →
      (∀ i, decode s.cfg.maxBurst w = .ok i → step s = exec i { s with inputs := es }) ∧
      (∀ r, decode s.cfg.maxBurst w = .error r →
        step s = .next { s with
          inputs := es
          status := { busy := false, done := true, err := true, errkind := .illegal, ovr := false }
          nativeErr := 0 })) ∧
    (s.ctl = .busy → (∃ i, decode s.cfg.maxBurst s.cmd = .ok i) →
      step s = .next { s with inputs := es, status := { s.status with ovr := true } })) ∧
  ∀ s : State, s.hostValue 32 0 = 0

/-- A command accepted with no return yet (R213, R26, R27, R28, R30): BUSY alone is set in STATUS, NATIVE_ERR is 0,
`cmd` holds the word, its first call is made and has not returned (R100), and nothing else the host or the transport
can see has changed. That the first call is made at once is the model's choice (log entry 32). -/
def Obligations.AcceptedCommandIsInFlight : Prop :=
  ∀ (s : State) (i : Instr), s.ctl = .idle → i.wf s.cfg.maxBurst = true → s.inputs = ([] : List Event) →
    ∃ t, exec i s = .next t ∧ t.ctl = .busy ∧ t.status.toWord = 1 ∧ t.nativeErr = 0 ∧ t.cmd = encode i ∧
      t.rbuf = s.rbuf ∧ t.rmwLatch = s.rmwLatch ∧ t.csAsserted = s.csAsserted ∧ t.cfg = s.cfg ∧ t.dev = s.dev ∧
      t.trace = s.trace ∧ t.hostLog = s.hostLog ∧ t.inputs = [] ∧
      (s.cfg.wf →
        t.calls = s.trace ++
          ([⟨if s.cfg.transport = .framed then .assertCs else firstTransfer i s, none⟩] : List PhyEvent))

/-- R116: while no primitive returns, the block stays BUSY in that step, whatever else happens, and calls nothing more;
only block reset leaves such a state, and it does; the call it abandons stays one event of the trace (R100). That a call
is in flight whenever the block is BUSY is the model's choice (log entry 32). -/
def Obligations.BlockedPrimitiveLeavesOnlyByReset : Prop :=
  (∀ (k : Nat) (s t : State), s.ctl = .busy →
    (∀ e ∈ s.inputs, e.isReturn = false ∧ e.isReset = false) →
    Host.Core.run Sys2Proof.core k s = .next t →
      t.ctl = .busy ∧ t.step = s.step ∧ t.phase = s.phase ∧ t.cmd = s.cmd ∧ t.trace = s.trace ∧ t.calls = s.calls) ∧
  ∀ (s : State) (es : List Event), s.ctl = .busy → (∃ i, decode s.cfg.maxBurst s.cmd = .ok i) →
    s.inputs = .blockReset :: es → ∃ t, step s = .next t ∧ t.ctl = .idle ∧ t.calls = s.calls

/-- Every step keeps the invariant: the flags of R25, the kinds of R29, the width of NATIVE_ERR (R31), the size of the
read buffer (R33), chip-select (R36), the canonical form of the device registers, and what holds of a command in
flight. -/
def Obligations.StepKeepsTheInvariant : Prop :=
  ∀ s t : State, Invariant s → step s = .next t → Invariant t

/-- The state after reset has the invariant, for every build and every value of what R39 leaves unspecified. -/
def Obligations.ResetHasTheInvariant : Prop :=
  Invariant State.reset ∧
    ∀ (c : Config) (latch : Byte) (buf : List Byte), c.wf → buf.length = c.maxBurst →
      Invariant (State.resetWith c latch buf)

/-- A state with the invariant never faults: the one fault of the model is for states no run reaches. -/
def Obligations.InvariantStatesNeverFault : Prop :=
  ∀ (s : State) (f : Fault), Invariant s → step s ≠ .fault f

/-- A command that `exec` runs on through the events that are there reaches what the same events reach one at a
time (R7: each agent takes its own steps; log entry 7). -/
def Obligations.MicroStepsReachTheSameState : Prop :=
  ∀ (s t : State) (w : Word) (es : List Event) (i : Instr),
    s.ctl = .idle → s.inputs = .hostWrite 32 0 w :: es → decode s.cfg.maxBurst w = .ok i →
    exec i { s with inputs := es } = .next t → ∃ k, microRun (k + 1) s = .next t

/-- R24, R62: what the host reads and writes while a command runs does not disturb it: with every host access taken
out of the events, the run reaches the same state but for OVR and for what the host has read. -/
def Obligations.HostAccessesDoNotDisturbACommand : Prop :=
  ∀ (s t : State) (i : Instr), s.ctl = .idle → exec i s = .next t →
    exec i { s with inputs := s.inputs.filter (fun e => !e.isHostAccess) } = .next (t.withoutHost s.hostLog)

/-! ### Commands that complete (41_register_access.md, 42_bitfield_rmw.md) -/

/-- R108: WRITE on FRAMED with every primitive Ok: its trace, STATUS and NATIVE_ERR, and what it leaves alone. The
reference device's register takes the byte, and every other keeps its own, where the chip-select line is known (R54); on
an unknown line the effect on the device is unspecified (R251), and nothing is claimed of it. -/
def Obligations.WriteCompletesOnFramed : Prop :=
  ∀ (s : State) (es : List Event) (reg : RegAddr) (v : Byte),
    s.ctl = .idle → s.cfg.transport = .framed → s.dev.wf → s.inputs = okTxn .framed .write ++ es →
    ∃ t, exec (.write reg v) s = .next t ∧ Completed s t .none 0 es ∧
      t.trace = s.trace ++
        ([⟨.assertCs, some (.ok [])⟩, ⟨.delayUs s.cfg.tSettleUs, some (.ok [])⟩, ⟨.send [reg.setWidth 8, v], some (.ok [])⟩,
          ⟨.releaseCs, some (.ok [])⟩, ⟨.delayUs s.cfg.tSettleUs, some (.ok [])⟩] : List PhyEvent) ∧
      t.rbuf = s.rbuf ∧ t.rmwLatch = s.rmwLatch ∧
      (s.lineKnown = true → t.devRead reg = v ∧ ∀ a, a ≠ reg → t.devRead a = s.devRead a)

/-- R111: WRITE on ADDRESSED with its primitive Ok. -/
def Obligations.WriteCompletesOnAddressed : Prop :=
  ∀ (s : State) (es : List Event) (reg : RegAddr) (v : Byte),
    s.ctl = .idle → s.cfg.transport = .addressed → s.csAsserted = false → s.dev.wf →
    s.inputs = okTxn .addressed .write ++ es →
    ∃ t, exec (.write reg v) s = .next t ∧ Completed s t .none 0 es ∧
      t.trace = s.trace ++ ([⟨.addrSend s.cfg.devAddr [reg.setWidth 8, v], some (.ok [])⟩] : List PhyEvent) ∧
      t.rbuf = s.rbuf ∧ t.rmwLatch = s.rmwLatch ∧
      (∀ a, a ≠ reg → t.devRead a = s.devRead a) ∧ t.devRead reg = v

/-- R109 and R136: READS on FRAMED with every primitive Ok, for any bytes the device sends: its trace, `rbuf[0..n−1]`,
and what it leaves alone; of the device only where the chip-select line is known (R251). -/
def Obligations.ReadsCompletesOnFramed : Prop :=
  ∀ (s : State) (es : List Event) (reg : RegAddr) (n : Nat) (x : Answer) (R : List Byte),
    s.ctl = .idle → s.cfg.transport = .framed → n ≤ s.cfg.maxBurst → brings s reg n x R →
    s.inputs = ([.answer .ok, .clock, .answer .ok, .answer x, .answer .ok, .clock] : List Event) ++ es →
    ∃ t, exec (.reads reg n) s = .next t ∧ Completed s t .none 0 es ∧
      t.trace = s.trace ++
        ([⟨.assertCs, some (.ok [])⟩, ⟨.delayUs s.cfg.tSettleUs, some (.ok [])⟩, ⟨.send [reg.setWidth 8 ||| 0x80], some (.ok [])⟩,
          ⟨.exchange (List.replicate n 0), some (.ok R)⟩, ⟨.releaseCs, some (.ok [])⟩, ⟨.delayUs s.cfg.tSettleUs, some (.ok [])⟩] : List PhyEvent) ∧
      t.rbuf = R ++ s.rbuf.drop n ∧ t.rmwLatch = s.rmwLatch ∧ (s.lineKnown = true → t.dev = s.dev)

/-- R112 and R136: READS on ADDRESSED with its primitive Ok, for any bytes the device sends. -/
def Obligations.ReadsCompletesOnAddressed : Prop :=
  ∀ (s : State) (es : List Event) (reg : RegAddr) (n : Nat) (x : Answer) (R : List Byte),
    s.ctl = .idle → s.cfg.transport = .addressed → s.csAsserted = false → n ≤ s.cfg.maxBurst →
    brings s reg n x R → s.inputs = .answer x :: es →
    ∃ t, exec (.reads reg n) s = .next t ∧ Completed s t .none 0 es ∧
      t.trace = s.trace ++ ([⟨.addrSendRecv s.cfg.devAddr [reg.setWidth 8 ||| 0x80] n, some (.ok R)⟩] : List PhyEvent) ∧
      t.rbuf = R ++ s.rbuf.drop n ∧ t.rmwLatch = s.rmwLatch ∧ t.dev = s.dev

/-- R133: READ on either transport, for any byte the device sends: one read transaction of one byte, into `rbuf[0]`.
That FRAMED leaves the device alone on an unknown line too is the model's choice (log entry 11). -/
def Obligations.ReadCompletes : Prop :=
  ∀ (s : State) (es : List Event) (reg : RegAddr) (x : Answer) (b : Byte),
    s.ctl = .idle → s.csAsserted = false → brings s reg 1 x [b] →
    (s.cfg.transport = .framed →
      s.inputs = ([.answer .ok, .clock, .answer .ok, .answer x, .answer .ok, .clock] : List Event) ++ es →
      ∃ t, exec (.read reg) s = .next t ∧ Completed s t .none 0 es ∧
        t.trace = s.trace ++
          ([⟨.assertCs, some (.ok [])⟩, ⟨.delayUs s.cfg.tSettleUs, some (.ok [])⟩, ⟨.send [reg.setWidth 8 ||| 0x80], some (.ok [])⟩,
            ⟨.exchange [0], some (.ok [b])⟩, ⟨.releaseCs, some (.ok [])⟩, ⟨.delayUs s.cfg.tSettleUs, some (.ok [])⟩] : List PhyEvent) ∧
        t.rbuf = b :: s.rbuf.drop 1 ∧ t.rmwLatch = s.rmwLatch ∧ t.dev = s.dev) ∧
    (s.cfg.transport = .addressed → s.inputs = .answer x :: es →
      ∃ t, exec (.read reg) s = .next t ∧ Completed s t .none 0 es ∧
        t.trace = s.trace ++ ([⟨.addrSendRecv s.cfg.devAddr [reg.setWidth 8 ||| 0x80] 1, some (.ok [b])⟩] : List PhyEvent) ∧
        t.rbuf = b :: s.rbuf.drop 1 ∧ t.rmwLatch = s.rmwLatch ∧ t.dev = s.dev)

/-- R150 on FRAMED with every primitive Ok: a read transaction of one byte `b`, then a write transaction of
`merge b off w v`; RDATA is not touched. What it says of the device where the chip-select line is unknown at the start is
the model's choice (log entry 11). -/
def Obligations.SetfCompletesOnFramed : Prop :=
  ∀ (s : State) (es : List Event) (reg : RegAddr) (off w : Nat) (v : Byte) (x : Answer) (b : Byte),
    s.ctl = .idle → s.cfg.transport = .framed → s.dev.wf → 1 ≤ w → off + w ≤ 8 → brings s reg 1 x [b] →
    s.inputs =
      ([.answer .ok, .clock, .answer .ok, .answer x, .answer .ok, .clock] : List Event) ++ okTxn .framed .write ++ es →
    ∃ t, exec (.setf reg off w v) s = .next t ∧ Completed s t .none 0 es ∧
      t.trace = s.trace ++
        ([⟨.assertCs, some (.ok [])⟩, ⟨.delayUs s.cfg.tSettleUs, some (.ok [])⟩, ⟨.send [reg.setWidth 8 ||| 0x80], some (.ok [])⟩,
          ⟨.exchange [0], some (.ok [b])⟩, ⟨.releaseCs, some (.ok [])⟩, ⟨.delayUs s.cfg.tSettleUs, some (.ok [])⟩,
          ⟨.assertCs, some (.ok [])⟩, ⟨.delayUs s.cfg.tSettleUs, some (.ok [])⟩,
          ⟨.send [reg.setWidth 8, merge b off w v], some (.ok [])⟩, ⟨.releaseCs, some (.ok [])⟩,
          ⟨.delayUs s.cfg.tSettleUs, some (.ok [])⟩] : List PhyEvent) ∧
      t.rbuf = s.rbuf ∧ t.rmwLatch = b ∧
      (∀ a, a ≠ reg → t.devRead a = s.devRead a) ∧ t.devRead reg = merge b off w v

/-- R150 on ADDRESSED with both primitives Ok. -/
def Obligations.SetfCompletesOnAddressed : Prop :=
  ∀ (s : State) (es : List Event) (reg : RegAddr) (off w : Nat) (v : Byte) (x : Answer) (b : Byte),
    s.ctl = .idle → s.cfg.transport = .addressed → s.csAsserted = false → s.dev.wf → 1 ≤ w → off + w ≤ 8 →
    brings s reg 1 x [b] → s.inputs = .answer x :: .answer .ok :: es →
    ∃ t, exec (.setf reg off w v) s = .next t ∧ Completed s t .none 0 es ∧
      t.trace = s.trace ++
        ([⟨.addrSendRecv s.cfg.devAddr [reg.setWidth 8 ||| 0x80] 1, some (.ok [b])⟩,
          ⟨.addrSend s.cfg.devAddr [reg.setWidth 8, merge b off w v], some (.ok [])⟩] : List PhyEvent) ∧
      t.rbuf = s.rbuf ∧ t.rmwLatch = b ∧
      (∀ a, a ≠ reg → t.devRead a = s.devRead a) ∧ t.devRead reg = merge b off w v

/-! ### Commands that fail (40_transport.md R107, 60_exceptions.md R210) -/

/-- R107 item 1: a failed PhyAssert ends the command at once, with CHIP_SELECT and that native error; nothing else is
performed. A failed read leaves the device alone, and a failed WRITE every register but its own, which holds any value
(R55). What it says of the device where the chip-select line is unknown is the model's choice (log entry 11). -/
def Obligations.FailedAssertEndsTheCommand : Prop :=
  ∀ (s : State) (es : List Event) (i : Instr) (e : Nat),
    s.ctl = .idle → s.cfg.transport = .framed → s.csAsserted = false → i.wf s.cfg.maxBurst = true →
    s.cfg.eNative.has e = true → s.inputs = .answer (.err e) :: es →
    ∃ t, exec i s = .next t ∧ Completed s t .chipSelect e es ∧
      t.trace = s.trace ++ ([⟨.assertCs, some (.err e)⟩] : List PhyEvent) ∧
      t.rmwLatch = s.rmwLatch ∧ t.rbuf.drop (planOf i).count = s.rbuf.drop (planOf i).count ∧
      (hasPhase i .read = true → t.dev = s.dev) ∧
      (s.dev.wf → ∀ a, a ≠ i.reg → t.devRead a = s.devRead a)

/-- R107 items 2, 4 and 5: after a failed PhySend or PhyExchange the block still releases and waits; the body's error
is reported, whatever the release returned. Of every command's first transaction. That a read leaves the device alone on
an unknown line too is the model's choice (log entry 11). -/
def Obligations.FailedBodyStillReleases : Prop :=
  ∀ (s : State) (es : List Event) (i : Instr) (e : Nat) (a : Answer) (r : Reply),
    s.ctl = .idle → s.cfg.transport = .framed → i.wf s.cfg.maxBurst = true → s.cfg.eNative.has e = true →
    replies s.cfg a r →
    (s.inputs = ([.answer .ok, .clock, .answer (.err e), .answer a, .clock] : List Event) ++ es →
      ∃ t, exec i s = .next t ∧ Completed s t .send e es ∧
        t.trace = s.trace ++
          ([⟨.assertCs, some (.ok [])⟩, ⟨.delayUs s.cfg.tSettleUs, some (.ok [])⟩, ⟨.send (firstHeader i s), some (.err e)⟩,
            ⟨.releaseCs, some r⟩, ⟨.delayUs s.cfg.tSettleUs, some (.ok [])⟩] : List PhyEvent) ∧
        t.rmwLatch = s.rmwLatch ∧ t.rbuf.drop (planOf i).count = s.rbuf.drop (planOf i).count) ∧
    (hasPhase i .read = true →
      s.inputs = ([.answer .ok, .clock, .answer .ok, .answer (.err e), .answer a, .clock] : List Event) ++ es →
      ∃ t, exec i s = .next t ∧ Completed s t .exchange e es ∧
        t.trace = s.trace ++
          ([⟨.assertCs, some (.ok [])⟩, ⟨.delayUs s.cfg.tSettleUs, some (.ok [])⟩, ⟨.send [i.reg.setWidth 8 ||| 0x80], some (.ok [])⟩,
            ⟨.exchange (List.replicate (planOf i).count 0), some (.err e)⟩, ⟨.releaseCs, some r⟩,
            ⟨.delayUs s.cfg.tSettleUs, some (.ok [])⟩] : List PhyEvent) ∧
        t.dev = s.dev ∧ t.rmwLatch = s.rmwLatch ∧ t.rbuf.drop (planOf i).count = s.rbuf.drop (planOf i).count)

/-- R107 items 3 and 5: a failed PhyRelease after a body without error ends the command with CHIP_SELECT, after the
second settle delay; the bytes received are not kept. That a read leaves the device alone on an unknown line too is the
model's choice (log entry 11). -/
def Obligations.FailedReleaseReportsChipSelect : Prop :=
  ∀ (s : State) (es : List Event) (e : Nat),
    s.ctl = .idle → s.cfg.transport = .framed → s.cfg.eNative.has e = true →
    (∀ reg v, s.inputs = ([.answer .ok, .clock, .answer .ok, .answer (.err e), .clock] : List Event) ++ es →
      ∃ t, exec (.write reg v) s = .next t ∧ Completed s t .chipSelect e es ∧
        t.trace = s.trace ++
          ([⟨.assertCs, some (.ok [])⟩, ⟨.delayUs s.cfg.tSettleUs, some (.ok [])⟩, ⟨.send [reg.setWidth 8, v], some (.ok [])⟩,
            ⟨.releaseCs, some (.err e)⟩, ⟨.delayUs s.cfg.tSettleUs, some (.ok [])⟩] : List PhyEvent) ∧ t.rbuf = s.rbuf) ∧
    (∀ i x R, i.wf s.cfg.maxBurst = true → hasPhase i .read = true → brings s i.reg (planOf i).count x R →
      s.inputs = ([.answer .ok, .clock, .answer .ok, .answer x, .answer (.err e), .clock] : List Event) ++ es →
      ∃ t, exec i s = .next t ∧ Completed s t .chipSelect e es ∧
        t.trace = s.trace ++
          ([⟨.assertCs, some (.ok [])⟩, ⟨.delayUs s.cfg.tSettleUs, some (.ok [])⟩, ⟨.send [i.reg.setWidth 8 ||| 0x80], some (.ok [])⟩,
            ⟨.exchange (List.replicate (planOf i).count 0), some (.ok R)⟩, ⟨.releaseCs, some (.err e)⟩,
            ⟨.delayUs s.cfg.tSettleUs, some (.ok [])⟩] : List PhyEvent) ∧
        t.dev = s.dev ∧ t.rmwLatch = s.rmwLatch ∧ t.rbuf.drop (planOf i).count = s.rbuf.drop (planOf i).count)

/-- R110, R210: a failed PhyAddrSend or PhyAddrSendRecv ends the command with BUS and that native error; also in the
write phase of SETF (R156). -/
def Obligations.FailedAddressedTransferReportsBus : Prop :=
  ∀ (s : State) (es : List Event) (e : Nat),
    s.ctl = .idle → s.cfg.transport = .addressed → s.csAsserted = false → s.cfg.eNative.has e = true →
    (∀ i, i.wf s.cfg.maxBurst = true → s.inputs = .answer (.err e) :: es →
      ∃ t, exec i s = .next t ∧ Completed s t .bus e es ∧ t.trace = s.trace ++ ([⟨firstTransfer i s, some (.err e)⟩] : List PhyEvent) ∧
        t.rmwLatch = s.rmwLatch ∧ t.rbuf.drop (planOf i).count = s.rbuf.drop (planOf i).count) ∧
    (∀ reg off w v x b, 1 ≤ w → off + w ≤ 8 → brings s reg 1 x [b] →
      s.inputs = .answer x :: .answer (.err e) :: es →
      ∃ t, exec (.setf reg off w v) s = .next t ∧ Completed s t .bus e es ∧
        t.trace = s.trace ++
          ([⟨.addrSendRecv s.cfg.devAddr [reg.setWidth 8 ||| 0x80] 1, some (.ok [b])⟩,
            ⟨.addrSend s.cfg.devAddr [reg.setWidth 8, merge b off w v], some (.err e)⟩] : List PhyEvent) ∧
        t.rbuf = s.rbuf)

/-- R155: if the read transaction fails, SETF completes with its kind and native error and performs no write
transaction; the device is as the failed read left it. The read transaction is the spec's own DoRead (R132). -/
def Obligations.SetfReadErrorMakesNoWrite : Prop :=
  ∀ (s s₁ : State) (reg : RegAddr) (off w : Nat) (v : Byte) (k : ErrKind) (e : Nat),
    s.ctl = .idle → 1 ≤ w → off + w ≤ 8 →
    Pseudocode.doRead reg 1 (accepted (.setf reg off w v) s) = some (.err k e, s₁) →
    ∃ t, exec (.setf reg off w v) s = .next t ∧ t.ctl = .idle ∧ t.status.errkind = k ∧
      t.nativeErr = captureNative s.cfg.nativeErrW e ∧ t.trace = s₁.trace ∧ t.dev = s₁.dev ∧ t.rbuf = s.rbuf ∧
      t.rmwLatch = s.rmwLatch

/-! ### The sequencer and the spec's procedures -/

/-- Where the spec's procedures (R105, R106, R110, R130 to R136, R150, R213) run to their end, `exec` ends in the same
state: trace, STATUS, NATIVE_ERR, read buffer, latch, device and all else but the controller's bookkeeping, which is
not meaningful while IDLE. -/
def Obligations.SequencerDoesWhatTheProceduresDo : Prop :=
  ∀ (s t₀ : State) (i : Instr), s.ctl = .idle → i.wf s.cfg.maxBurst = true → Pseudocode.accept i s = some t₀ →
    ∃ t, exec i s = .next t ∧ t.ctl = .idle ∧ Pseudocode.settled t = Pseudocode.settled t₀

/-- And where the events are returns only and `exec` completes the command, the spec's procedures run to their end in
the same state. -/
def Obligations.CompletedRunsAreThoseOfTheProcedures : Prop :=
  ∀ (s t : State) (i : Instr), s.ctl = .idle → i.wf s.cfg.maxBurst = true →
    (∀ e ∈ s.inputs, e.isReturn = true) → exec i s = .next t → t.ctl = .idle →
    ∃ t₀, Pseudocode.accept i s = some t₀ ∧ Pseudocode.settled t = Pseudocode.settled t₀

/-- R138: every WRITE, READ and READS that is not ILLEGAL performs exactly one transaction, and an ILLEGAL word none. A
transaction's trace on FRAMED is a failed assert alone, or one bracket with its two settle delays (R113). -/
def Obligations.OneTransactionPerCommand : Prop :=
  (∀ (s t : State) (i : Instr), s.ctl = .idle → i.wf s.cfg.maxBurst = true →
    (hasPhase i .read = true → hasPhase i .write = false) →
    (∀ e ∈ s.inputs, e.isReset = false) → exec i s = .next t → t.ctl = .idle →
    ∃ tr, t.trace = s.trace ++ tr ∧ TxnShape s.cfg tr) ∧
  ∀ (s t : State) (w : Word) (es : List Event), s.ctl = .idle → s.inputs = .hostWrite 32 0 w :: es →
    (∃ r, decode s.cfg.maxBurst w = .error r) → step s = .next t → t.trace = s.trace

/-- R154, R155: a SETF that completes has made one read transaction, the DoRead of one byte, and, if and only if it
succeeded, one write transaction, the DoWrite of the merged byte. -/
def Obligations.SetfReadsOnceThenWritesOnce : Prop :=
  ∀ (s t : State) (reg : RegAddr) (off w : Nat) (v : Byte), s.ctl = .idle → 1 ≤ w → off + w ≤ 8 →
    (∀ e ∈ s.inputs, e.isReturn = true) → exec (.setf reg off w v) s = .next t → t.ctl = .idle →
    ∃ res s₁, Pseudocode.doRead reg 1 (accepted (.setf reg off w v) s) = some (res, s₁) ∧
      match res with
      | .err k _ => t.trace = s₁.trace ∧ t.status.errkind = k
      | .ok R =>
        ∃ res₂ s₂,
          Pseudocode.doWrite reg (merge (R.headD 0) off w v) { s₁ with rmwLatch := R.headD 0 } = some (res₂, s₂) ∧
          t.trace = s₂.trace ∧
          t.status.errkind = match res₂ with | .ok _ => .none | .err k _ => k

/-- R101: the block performs only the primitives of its transport, to DEV_ADDR, with settle delays of T_SETTLE_US and on
FRAMED only; no step changes the choice, and it shows in CONFIG bit 0. -/
def Obligations.OnlyTheTransportsPrimitives : Prop :=
  (∀ s t : State, Invariant s → step s = .next t →
    t.cfg.transport = s.cfg.transport ∧ ∃ tr, t.trace = s.trace ++ tr ∧ ∀ x ∈ tr, x.prim.allowed s.cfg = true) ∧
  ∀ c : Config, (configWord c).getLsbD 0 = decide (c.transport = .addressed)

/-- R102, R224: an idle block performs no primitive unless a legal command word is written to CMD. -/
def Obligations.IdleBlockPerformsNoPrimitive : Prop :=
  ∀ s t : State, s.ctl = .idle →
    (∀ w es i, s.inputs = .hostWrite 32 0 w :: es → decode s.cfg.maxBurst w ≠ .ok i) →
    step s = .next t → t.trace = s.trace ∧ t.ctl = .idle

/-! ### Laws of the commands -/

/-- R134: READ is READS with n = 1, on every state and for all events: the same outcome but for the command word. -/
def Obligations.ReadIsReadsOfOne : Prop :=
  ∀ (s : State) (reg : RegAddr), 1 ≤ s.cfg.maxBurst →
    mapNext State.withoutCmd (exec (.read reg) s) = mapNext State.withoutCmd (exec (.reads reg 1) s)

/-- R161: only the low `w` bits of SETF's value count, on every state and for all events. -/
def Obligations.SetfIgnoresExcessValueBits : Prop :=
  ∀ (s : State) (reg : RegAddr) (off w : Nat) (v : Byte),
    mapNext State.withoutCmd (exec (.setf reg off w v) s) =
      mapNext State.withoutCmd (exec (.setf reg off w (v &&& fmask w)) s)

/-- R153: outside the field the merged byte has the old bits; in the field it has the low bits of the value. -/
def Obligations.MergeKeepsBitsOutsideTheField : Prop :=
  ∀ (old v : Byte) (off w : Nat), 1 ≤ w → off + w ≤ 8 →
    (∀ k, k < 8 → (k < off ∨ off + w ≤ k) → (merge old off w v).getLsbD k = old.getLsbD k) ∧
    (merge old off w v).extractLsb' off w = (v &&& fmask w).extractLsb' 0 w ∧
    fmask w = BitVec.ofNat 8 (2 ^ w - 1)

/-- R152: width 8 replaces the byte, and its mask is 0xFF. -/
def Obligations.WidthEightReplacesTheByte : Prop :=
  fmask 8 = 0xFF ∧ ∀ old v : Byte, merge old 0 8 v = v

/-- R139: on the reference device, with every primitive Ok, WRITE then READ of the same register leaves the byte in
`rbuf[0]`, on both transports. -/
def Obligations.RoundTripOnTheReferenceDevice : Prop :=
  ∀ (s : State) (reg : RegAddr) (v : Byte) (es : List Event),
    s.ctl = .idle → s.cfg.wf → s.dev.wf → s.lineKnown = true →
    s.inputs = cmdEvents s.cfg (encode (.write reg v)) ++ cmdEvents s.cfg (encode (.read reg)) ++ es →
    ∃ t₁ t₂, step s = .next t₁ ∧ step t₁ = .next t₂ ∧ t₂.rbuf.head? = some v ∧ t₂.status.toWord = 2

/-- R160: on the reference device, with every primitive Ok, two SETF with the same operands write the same byte, and the
second leaves every register as the first did. -/
def Obligations.SetfTwiceIsSetfOnce : Prop :=
  ∀ (s : State) (reg : RegAddr) (off w : Nat) (v : Byte) (es : List Event),
    s.ctl = .idle → s.cfg.wf → s.dev.wf → s.lineKnown = true → 1 ≤ w → off + w ≤ 8 →
    s.inputs = cmdEvents s.cfg (encode (.setf reg off w v)) ++ cmdEvents s.cfg (encode (.setf reg off w v)) ++ es →
    ∃ t₁ t₂, step s = .next t₁ ∧ step t₁ = .next t₂ ∧ t₁.devRead reg = merge (s.devRead reg) off w v ∧
      t₂.trace.filterMap PhyEvent.written =
        s.trace.filterMap PhyEvent.written ++
          [(reg.setWidth 8, merge (s.devRead reg) off w v), (reg.setWidth 8, merge (s.devRead reg) off w v)] ∧
      ∀ a, t₂.devRead a = t₁.devRead a

/-- R64: SETF is not atomic at the device: what the device does to the register after SETF has read it is lost, since the
write carries bits computed from the stale byte. The register holds `y` when the first transaction has ended and the
device has acted; after the command it holds the merge of the byte read before. The device acts while the first call of
the write transaction is in flight (PhyAddrSend, or the second PhyAssert), which is the model's choice (log entry 32), and
that its change is lost on ADDRESSED rests on the moment of the write there (log entry 33). -/
def Obligations.SetfWritesFromTheStaleByte : Prop :=
  ∀ (s : State) (pre post es : List Event) (reg : RegAddr) (off w : Nat) (v y : Byte),
    s.ctl = .idle → s.csAsserted = false → s.dev.wf → (s.cfg.transport = .framed → s.lineKnown = true) →
    1 ≤ w → off + w ≤ 8 →
    pre = okTxn s.cfg.transport .read ++ [.device reg y] → post = okTxn s.cfg.transport .write →
    s.inputs = pre ++ post ++ es →
    ∃ t₀ t, exec (.setf reg off w v) { s with inputs := pre } = .next t₀ ∧ t₀.ctl = .busy ∧ t₀.devRead reg = y ∧
      t₀.rmwLatch = s.devRead reg ∧
      exec (.setf reg off w v) s = .next t ∧ Completed s t .none 0 es ∧ t.devRead reg = merge (s.devRead reg) off w v

/-! ### Frames -/

/-- R34, R35, R130, R133, R136, R150: what a command leaves of the read buffer and the latch, whatever the events but
block reset, and however it ends: WRITE leaves both, READ and READS all but `rbuf[0..n−1]`, SETF the buffer. -/
def Obligations.ReadBufferAndLatchFrame : Prop :=
  ∀ (s t : State) (i : Instr), (∀ e ∈ s.inputs, e.isReset = false) → exec i s = .next t →
    t.cfg = s.cfg ∧
    match i with
    | .write _ _ => t.rbuf = s.rbuf ∧ t.rmwLatch = s.rmwLatch
    | .read _ => t.rbuf.drop 1 = s.rbuf.drop 1 ∧ t.rmwLatch = s.rmwLatch
    | .reads _ n => t.rbuf.drop n = s.rbuf.drop n ∧ t.rmwLatch = s.rmwLatch
    | .setf _ _ _ _ => t.rbuf = s.rbuf

/-- R51, R55: what a command leaves of the reference device, whatever the events but the device's own, and however it
ends: READ and READS all of it, WRITE and SETF every register but the one they name. After a block reset in a command
(R241) and on an unknown chip-select line (R251) the spec leaves the device's state unspecified: that the other registers
keep their values there is the model's choice (log entries 12 and 11). -/
def Obligations.DeviceRegisterFrame : Prop :=
  ∀ (s t : State) (i : Instr), s.dev.wf → (∀ e ∈ s.inputs, e.isDevice = false) → exec i s = .next t →
    match i with
    | .write reg _ => ∀ a, a ≠ reg → t.devRead a = s.devRead a
    | .read _ => t.dev = s.dev
    | .reads _ _ => t.dev = s.dev
    | .setf reg _ _ _ => ∀ a, a ≠ reg → t.devRead a = s.devRead a

/-! ### The host window (10_state.md, 20_memory.md) -/

/-- R25: STATUS bit by bit, its legal values in every state with the invariant, and a host write to it ignored. -/
def Obligations.StatusWordFields : Prop :=
  (∀ s : State, Invariant s →
    s.status.toWord.getLsbD 0 = decide (s.ctl = .busy) ∧
    s.status.toWord.getLsbD 1 = s.status.done ∧
    s.status.toWord.getLsbD 2 = decide (s.status.errkind ≠ .none) ∧
    s.status.toWord.getLsbD 3 = false ∧
    s.status.toWord.extractLsb' 4 3 = s.status.errkind.code ∧
    s.status.toWord.getLsbD 7 = false ∧
    s.status.toWord.getLsbD 8 = s.status.ovr ∧
    s.status.toWord.extractLsb' 9 23 = 0 ∧
    ¬(s.status.toWord.getLsbD 0 = true ∧ s.status.toWord.getLsbD 1 = true) ∧
    s.status.errkind.code.toNat ≤ 5 ∧ s.hostValue 32 0x04 = s.status.toWord) ∧
  ∀ (s : State) (w : Word) (es : List Event), Invariant s → s.inputs = .hostWrite 32 0x04 w :: es →
    step s = .next { s with inputs := es }

/-- R32: CONFIG bit by bit, and no step changes it, block reset included. -/
def Obligations.ConfigIsConstant : Prop :=
  (∀ c : Config, c.wf →
    (configWord c).getLsbD 0 = decide (c.transport = .addressed) ∧
    (configWord c).extractLsb' 1 7 = 0 ∧
    (configWord c).extractLsb' 8 7 = (if c.transport = .addressed then c.devAddr else 0) ∧
    (configWord c).getLsbD 15 = false ∧
    ((configWord c).extractLsb' 16 6).toNat = c.maxBurst ∧
    (configWord c).extractLsb' 22 10 = 0) ∧
  ∀ s t : State, step s = .next t → t.cfg = s.cfg ∧ t.hostValue 32 0x0C = s.hostValue 32 0x0C

/-- R56: a host access of another width or at another offset is ignored if it is a write and returns 0 if it is a read;
it changes no block state and starts no command. -/
def Obligations.UndefinedHostAccessesDoNothing : Prop :=
  ∀ (s : State) (width : Nat) (off : BitVec 6) (w : Word) (es : List Event),
    (s.ctl = .busy → ∃ i, decode s.cfg.maxBurst s.cmd = .ok i) → ¬(width = 32 ∧ off.toNat % 4 = 0) →
    (s.inputs = .hostWrite width off w :: es → step s = .next { s with inputs := es }) ∧
    (s.inputs = .hostRead width off :: es →
      step s = .next { s with inputs := es, hostLog := s.hostLog ++ [⟨width, off, 0⟩] })

/-- R23, R31, R33, R59: what a 32-bit read of each register returns while IDLE; byte k of the read buffer is in byte
lane k mod 4 of RDATA(k/4), and reads 0 at and beyond MAX_BURST. Idle or in flight, a write to a read-only or reserved
offset is ignored, and a read has no side effect: it gives that value, and only the model's log of reads grows. -/
def Obligations.WindowRegisters : Prop :=
  (∀ s : State, s.ctl = .idle →
    s.hostValue 32 0x00 = 0 ∧ s.hostValue 32 0x04 = s.status.toWord ∧ s.hostValue 32 0x08 = s.nativeErr ∧
    s.hostValue 32 0x0C = configWord s.cfg ∧
    (∀ off : BitVec 6, 0x10 ≤ off.toNat → off.toNat < 0x20 → s.hostValue 32 off = 0) ∧
    ∀ k, k < 32 →
      (s.hostValue 32 (BitVec.ofNat 6 (0x20 + 4 * (k / 4)))).extractLsb' (8 * (k % 4)) 8 =
        if k < s.cfg.maxBurst then s.rbuf.getD k 0 else 0) ∧
  ∀ (s : State) (off : BitVec 6) (w : Word) (es : List Event),
    (s.ctl = .busy → ∃ i, decode s.cfg.maxBurst s.cmd = .ok i) → off.toNat % 4 = 0 →
    (off ≠ 0 → s.inputs = .hostWrite 32 off w :: es → step s = .next { s with inputs := es }) ∧
    (s.inputs = .hostRead 32 off :: es →
      step s = .next { s with inputs := es, hostLog := s.hostLog ++ [⟨32, off, s.hostValue 32 off⟩] })

/-- R240, R39: block reset, idle or in flight: IDLE, no chip-select, STATUS and NATIVE_ERR 0, CONFIG as it was; no
primitive, and a call it abandons stays one event of the trace (R100); an idle block's reset leaves the device alone
(R242). That a reset while BUSY always finds a call in flight is the model's choice (log entry 32). -/
def Obligations.BlockResetLeavesResetState : Prop :=
  ∀ (s : State) (es : List Event), s.inputs = .blockReset :: es →
    (s.ctl = .busy → ∃ i, decode s.cfg.maxBurst s.cmd = .ok i) →
    ∃ t, step s = .next t ∧ t.ctl = .idle ∧ t.csAsserted = false ∧ t.status.toWord = 0 ∧ t.nativeErr = 0 ∧
      t.cfg = s.cfg ∧ t.trace = s.calls ∧ t.inputs = es ∧ (s.ctl = .idle → t.dev = s.dev)

/-- R241: a block reset that lands in a command abandons it: the call in flight stays without a result (R100), no further
primitive, no completion. That a call is always in flight there is the model's choice (log entry 32). -/
def Obligations.ResetAbandonsTheCommand : Prop :=
  ∀ (s t₁ : State) (i : Instr) (pre post : List Event),
    s.cfg.wf → s.ctl = .idle → exec i { s with inputs := pre } = .next t₁ → t₁.ctl = .busy →
    ∃ t, exec i { s with inputs := pre ++ .blockReset :: post } = .next t ∧ t.ctl = .idle ∧ t.status.toWord = 0 ∧
      t.csAsserted = false ∧ t.trace = t₁.calls ∧ t.inputs = post

/-- R119, R100, R6, R102, R65: the inputs without a meaning, each refused by its name: an Ok with another number of bytes
than asked for, to the first transaction of a read and to any call in flight; a native error that is not in E_native; a
return that nothing in flight asked for, in flight and idle; a second master on the transport. That the model stops at a
foreign native error and at an unasked return is log entry 14's reading. -/
def Obligations.InputsOutsideTheInterfaceAreRefused : Prop :=
  (∀ (s : State) (es : List Event) (i : Instr) (R : List Byte),
    s.ctl = .idle → i.wf s.cfg.maxBurst = true → hasPhase i .read = true → R.length ≠ (planOf i).count →
    (s.cfg.transport = .addressed → s.inputs = .answer (.okBytes R) :: es → exec i s = .refused .wrongLength) ∧
    (s.cfg.transport = .framed →
      s.inputs = ([.answer .ok, .clock, .answer .ok, .answer (.okBytes R)] : List Event) ++ es →
      exec i s = .refused .wrongLength)) ∧
  (∀ (s : State) (es : List Event) (i : Instr), s.ctl = .busy → decode s.cfg.maxBurst s.cmd = .ok i →
    (((planOf i).prim s).isDelay = false →
      (∀ R, R.length ≠ ((planOf i).prim s).expects → s.inputs = .answer (.okBytes R) :: es →
        step s = .refused .wrongLength) ∧
      (∀ e, s.cfg.eNative.has e = false → s.inputs = .answer (.err e) :: es → step s = .refused .foreignNativeError) ∧
      (s.inputs = .clock :: es → step s = .refused .unaskedReturn)) ∧
    (((planOf i).prim s).isDelay = true → ∀ a, s.inputs = .answer a :: es → step s = .refused .unaskedReturn)) ∧
  (∀ (s : State) (es : List Event), s.ctl = .idle →
    (∀ a, s.inputs = .answer a :: es → step s = .refused .unaskedReturn) ∧
    (s.inputs = .clock :: es → step s = .refused .unaskedReturn)) ∧
  ∀ (s : State) (es : List Event), Invariant s → s.inputs = .otherMaster :: es → step s = .refused .secondMaster

/-! ### Client operations (43_client_operations.md) -/

/-- R178: `set_sample_rate` refuses rate 0 and a rate above the base with no command, and otherwise issues one WRITE of
`trunc_8(base / rate − 1)` to the divider register. -/
def Obligations.SampleRateDivider : Prop :=
  ∀ (p : Client.Params) (h : Client.Handle) (rate : Nat) (es : List Event),
    (rate = 0 → Client.setSampleRate p rate h = .refused .rateZero h) ∧
    (Client.rateBase h.dlpfEnabled < rate → Client.setSampleRate p rate h = .refused .rateAboveBase h) ∧
    (rate ≠ 0 → rate ≤ Client.rateBase h.dlpfEnabled →
      h.block.ctl = .idle → h.block.dev.wf → h.block.lineKnown = true → h.settleOwed = 0 →
      h.block.inputs = okTxn h.block.cfg.transport .write ++ es →
      ∃ h', Client.setSampleRate p rate h = .done () h' ∧ h'.dlpfEnabled = h.dlpfEnabled ∧
        h'.acts = h.acts ++
          [.issued (.write p.rSmplrtDiv
            (BitVec.ofNat 8 ((if h.dlpfEnabled then 1000 else 8000) / rate - 1)))] ∧
        h'.block.devRead p.rSmplrtDiv =
          BitVec.ofNat 8 ((if h.dlpfEnabled then 1000 else 8000) / rate - 1))

/-- R177: `set_dlpf` edits the filter field with SETF and updates `dlpf_enabled` only when the SETF completes without
error; a value above 7 is refused with no command. -/
def Obligations.FilterSettingUpdatesOnlyOnSuccess : Prop :=
  ∀ (p : Client.Params) (h h' : Client.Handle) (value : Nat),
    (7 < value → Client.setDlpf p value h = .refused .dlpfAboveSeven h) ∧
    (Client.setDlpf p value h = .done () h' →
      h'.dlpfEnabled = decide (0 < value ∧ value < 7) ∧
      h'.acts = h.acts ++ [.issued (.setf p.rConfig p.fDlpf 3 (BitVec.ofNat 8 value))] ∧
      h'.block.status.err = false) ∧
    ∀ k n, Client.setDlpf p value h = .error k n h' → h'.dlpfEnabled = h.dlpfEnabled

/-- R172, R173: `identity_check` reads the identity register, then the revision register, also when the identity does
not match; it is true only for the expected identity and a known product. A false result is not an error. That the host reads
RDATA before the events `es` is the model's choice (log entry 34). -/
def Obligations.IdentityCheckReadsBoth : Prop :=
  ∀ (p : Client.Params) (h : Client.Handle) (id rev : Byte) (es : List Event),
    h.block.ctl = .idle → h.block.cfg.wf →
    h.block.inputs = okRead h.block.cfg.transport id ++ okRead h.block.cfg.transport rev ++ es →
    ∃ h', Client.identityCheck p h =
        .done (decide (id = h.expectedIdentity) && p.knownProductIds.contains rev) h' ∧
      h'.acts = h.acts ++ [.issued (.read p.rWhoAmI), .issued (.read p.rProductId)] ∧
      h'.block.status.err = false ∧ h'.dlpfEnabled = h.dlpfEnabled

/-- R192: an operation stops at the first command that completes with an error, whichever of its commands it is, with
that error and no further command or wait. The error is the block's record, the command was issued, and `dlpf_enabled`
is as before. R10: a host program goes on with its next line, since its command has completed. -/
def Obligations.ClientOperationsStopAtAnError : Prop :=
  ∀ (p : Client.Params) (h h₁ h' : Client.Handle) (k : ErrKind) (n : Word),
    (∀ i, Client.issue p i h = .error k n h' →
      h'.acts = h.acts ++ [.issued i] ∧ h'.dlpfEnabled = h.dlpfEnabled ∧ k = h'.block.status.errkind ∧
        n = h'.block.nativeErr) ∧
    (Client.issue p (.read p.rWhoAmI) h = .error k n h' → Client.identityCheck p h = .error k n h') ∧
    (Client.issue p (.read p.rWhoAmI) h = .done () h₁ → Client.issue p (.read p.rProductId) h₁ = .error k n h' →
      Client.identityCheck p h = .error k n h') ∧
    (Client.issue p (.read p.rFifoCountH) h = .error k n h' → Client.getFifoCounter p h = .error k n h') ∧
    (Client.issue p (.read p.rFifoCountH) h = .done () h₁ → Client.issue p (.read p.rFifoCountL) h₁ = .error k n h' →
      Client.getFifoCounter p h = .error k n h') ∧
    (Client.issue p (.read p.rUserCtrl) h = .error k n h' → Client.enableFifoBuffer p h = .error k n h') ∧
    (Client.issue p (.read p.rUserCtrl) h = .done () h₁ →
      Client.issue p (.write p.rUserCtrl (Client.bufferByte h₁ 0 ||| (1 <<< p.bFifoBufEn))) h₁ = .error k n h' →
      Client.enableFifoBuffer p h = .error k n h') ∧
    (Client.issue p (.setf p.rPwr1 p.bDeviceReset 1 1) h = .error k n h' → Client.reset p h = .error k n h') ∧
    (Client.issue p (.setf p.rPwr1 p.bDeviceReset 1 1) h = .done () h₁ →
      Client.issue p (.setf p.rSigpath p.fSigpathResets 3 7)
          { h₁ with settleOwed := h₁.settleOwed - 150, acts := h₁.acts ++ [.waited 150] } = .error k n h' →
      Client.reset p h = .error k n h') ∧
    (∀ r, Client.issue p (.reads p.rAccelXoutH 6) h = .error k n h' → Client.readAcceleration p r h = .error k n h') ∧
    (Client.issue p (.reads (p.rAccelXoutH + 6) 2) h = .error k n h' → Client.readTemperature p h = .error k n h') ∧
    (∀ r, Client.issue p (.reads (p.rAccelXoutH + 8) 6) h = .error k n h' → Client.readGyro p r h = .error k n h') ∧
    (∀ a g, Client.issue p (.reads p.rAccelXoutH 14) h = .error k n h' → Client.readAll p a g h = .error k n h') ∧
    ∀ (before after : List AsmLine) (i : Instr),
      Client.runProgram p before h = .done () h₁ → Client.issue p i h₁ = .error k n h' →
      Client.runProgram p (before ++ .command i :: after) h = Client.runProgram p after h'

/-- R184: `get_fifo_counter` reads the high byte, then the low byte, and combines them high byte first. That the host reads
RDATA before the events `es` is the model's choice (log entry 34). -/
def Obligations.FifoCounterIsBigEndian : Prop :=
  ∀ (p : Client.Params) (h : Client.Handle) (hi lo : Byte) (es : List Event),
    h.block.ctl = .idle → h.block.cfg.wf →
    h.block.inputs = okRead h.block.cfg.transport hi ++ okRead h.block.cfg.transport lo ++ es →
    ∃ h' c, Client.getFifoCounter p h = .done c h' ∧ c.toNat = hi.toNat * 256 + lo.toNat ∧
      h'.acts = h.acts ++ [.issued (.read p.rFifoCountH), .issued (.read p.rFifoCountL)]

/-- R174: the reset program: the device-reset bit, 150 ms, the three signal-path bits together, 150 ms. -/
def Obligations.DeviceResetSequence : Prop :=
  ∀ (p : Client.Params) (h : Client.Handle) (es : List Event),
    p.wf → h.block.ctl = .idle → h.block.cfg.wf → h.block.inputs =
      okReturns h.block.cfg.transport (.setf p.rPwr1 p.bDeviceReset 1 1) ++
        okReturns h.block.cfg.transport (.setf p.rSigpath p.fSigpathResets 3 7) ++ es →
    ∃ h', Client.reset p h = .done () h' ∧ h'.block.status.err = false ∧
      h'.acts = h.acts ++
        [.issued (.setf p.rPwr1 p.bDeviceReset 1 1), .waited 150,
          .issued (.setf p.rSigpath p.fSigpathResets 3 7), .waited 150]

/-- R183: the bus trace of `enable_fifo_buffer` is that of SETBIT on the same register and bit, for any byte the device
sends, and it is two commands, so that RDATA changes. -/
def Obligations.FifoBufferEnableTraceIsThatOfSetbit : Prop :=
  ∀ (p : Client.Params) (h : Client.Handle) (b : Byte) (es : List Event),
    p.wf → h.block.ctl = .idle → h.block.cfg.wf →
    h.block.inputs = okRead h.block.cfg.transport b ++ okTxn h.block.cfg.transport .write ++ es →
    ∃ h' t, Client.enableFifoBuffer p h = .done () h' ∧
      exec (expandPseudo (.setbit p.rUserCtrl p.bFifoBufEn)) h.block = .next t ∧ h'.block.trace = t.trace ∧
      h'.acts = h.acts ++
        [.issued (.read p.rUserCtrl), .issued (.write p.rUserCtrl (b ||| (1 <<< p.bFifoBufEn)))] ∧
      h'.block.rbuf = b :: h.block.rbuf.drop 1 ∧ t.rbuf = h.block.rbuf

/-- R187: a sample is a big-endian signed 16-bit integer, with the spec's three examples. -/
def Obligations.SamplesAreBigEndianSigned : Prop :=
  (∀ hi lo : Byte,
    Client.sample hi lo =
      (if hi.toNat < 128 then (hi.toNat * 256 + lo.toNat : Int) else (hi.toNat * 256 + lo.toNat : Int) - 65536) ∧
    -32768 ≤ Client.sample hi lo ∧ Client.sample hi lo ≤ 32767) ∧
  Client.sample 0x01 0x00 = 256 ∧ Client.sample 0xFF 0xFF = -1 ∧ Client.sample 0x80 0x00 = -32768

/-- The conversions of the spec's 14-byte buffer whose constants it fixes (95_test_vectors.md S8, R188, R189). -/
def Obligations.SpecBufferConversions : Prop :=
  [Client.scaled (Binary32.ofInt 16384) (Client.sample 0x01 0x00),
    Client.scaled (Binary32.ofInt 16384) (Client.sample 0x02 0x00),
    Client.scaled (Binary32.ofInt 16384) (Client.sample 0x03 0x00),
    Client.scaled (Binary32.ofInt 131) (Client.sample 0x00 0x10),
    Client.scaled (Binary32.ofInt 131) (Client.sample 0x00 0x20),
    Client.scaled (Binary32.ofInt 131) (Client.sample 0x00 0x30)] =
  [0x3C800000, 0x3D000000, 0x3D400000, 0x3DFA232D, 0x3E7A232D, 0x3EBB9A62]

/-- R188, D39: a rounded value that does not overflow is within half a unit in the last place of the exact one; values
are counted in units of 2^−149, and `2 ^ e` such units are the last place. -/
def Obligations.RoundingIsWithinHalfAUnit : Prop :=
  ∀ (neg : Bool) (num den : Nat), 0 < den → Binary32.isFinite (Binary32.round neg num den) = true →
    2 * (Binary32.units (Binary32.round neg num den) * den) ≤ 2 * num + den * 2 ^ ((num / den).log2 - 23) ∧
    2 * num ≤ 2 * (Binary32.units (Binary32.round neg num den) * den) + den * 2 ^ ((num / den).log2 - 23)
end

