-- ==== Sys2Proof/Laws/Binary32.lean ====
section
/-! SUPPORT. What binary32 division and addition give, one lemma for finite operands and one for each special case. -/

namespace Sys2Proof.Machine.Binary32

theorem isNan_eq_false {w : Word} (h : isFinite w = true) : isNan w = false := by
  simp only [isFinite, decide_eq_true_eq] at h
  simp [isNan, h]

theorem isInf_eq_false {w : Word} (h : isFinite w = true) : isInf w = false := by
  simp only [isFinite, decide_eq_true_eq] at h
  simp [isInf, h]

/-- What `nan` gives is a NaN, whatever its sign and payload. -/
@[simp] theorem isNan_nan (a b : Word) : isNan (nan a b) = true := by
  have exp : (Config.freeNan a b ||| 0x7FC00000).extractLsb' 23 8 = 255#8 := by
    ext k hk
    interval_cases k <;> simp [BitVec.getElem_extractLsb']
  have frac : (Config.freeNan a b ||| 0x7FC00000).extractLsb' 0 23 ≠ 0#23 := by
    intro h
    have := congrArg (fun x => x.getLsbD 22) h
    simp at this
  have fracField_ne : fracField (nan a b) ≠ 0 := fun h => frac (BitVec.eq_of_toNat_eq h)
  have expField_eq : expField (nan a b) = 255 := congrArg BitVec.toNat exp
  simp [isNan, expField_eq, fracField_ne]

/-- A quotient of finite values, the divisor not zero: exact, then rounded once. -/
theorem div_of_finite {a b : Word} (ha : isFinite a = true) (hb : isFinite b = true) (h : units b ≠ 0) :
    div a b = round (signBit a != signBit b) (units a * 2 ^ 149) (units b) := by
  simp [div, isNan_eq_false, isInf_eq_false, ha, hb, h]

/-- A finite value that is not zero, divided by zero. -/
theorem div_by_zero {a b : Word} (ha : isFinite a = true) (hb : isFinite b = true) (h : units a ≠ 0)
    (hz : units b = 0) : div a b = infinity (signBit a != signBit b) := by
  simp [div, isNan_eq_false, isInf_eq_false, ha, hb, h, hz]

/-- A sum of finite values: exact, then rounded once. -/
theorem add_of_finite {a b : Word} (ha : isFinite a = true) (hb : isFinite b = true) :
    add a b =
      round
        (if signedUnits a + signedUnits b = 0 then signBit a && signBit b
          else decide (signedUnits a + signedUnits b < 0))
        (signedUnits a + signedUnits b).natAbs 1 := by
  simp [add, isNan_eq_false, isInf_eq_false, ha, hb]

/-- A finite value plus an infinity is that infinity. -/
theorem add_infinity {a b : Word} (ha : isFinite a = true) (hb : isInf b = true) : add a b = b := by
  have hn : isNan b = false := by
    simp only [isInf, Bool.and_eq_true, decide_eq_true_eq] at hb
    simp [isNan, hb.2]
  simp [add, isNan_eq_false, isInf_eq_false, ha, hb, hn]

end Sys2Proof.Machine.Binary32
end

