-- ==== Sys2Proof/Laws/State.lean ====
section
/-! SUPPORT. What each named update of the state does to each field: one lemma per field, true by rfl. -/

namespace Sys2Proof.Machine


/-! ### clearRecord -/

@[simp] theorem State.clearRecord_cfg (s : State) : s.clearRecord.cfg = s.cfg := rfl
@[simp] theorem State.clearRecord_ctl (s : State) : s.clearRecord.ctl = s.ctl := rfl
@[simp] theorem State.clearRecord_cmd (s : State) : s.clearRecord.cmd = s.cmd := rfl
@[simp] theorem State.clearRecord_step (s : State) : s.clearRecord.step = s.step := rfl
@[simp] theorem State.clearRecord_phase (s : State) : s.clearRecord.phase = s.phase := rfl
@[simp] theorem State.clearRecord_firstErr (s : State) : s.clearRecord.firstErr = s.firstErr := rfl
@[simp] theorem State.clearRecord_rx (s : State) : s.clearRecord.rx = s.rx := rfl
@[simp] theorem State.clearRecord_rmwLatch (s : State) : s.clearRecord.rmwLatch = s.rmwLatch := rfl
@[simp] theorem State.clearRecord_csAsserted (s : State) : s.clearRecord.csAsserted = s.csAsserted := rfl
@[simp] theorem State.clearRecord_status (s : State) : s.clearRecord.status = s.status.cleared := rfl
@[simp] theorem State.clearRecord_nativeErr (s : State) : s.clearRecord.nativeErr = 0 := rfl
@[simp] theorem State.clearRecord_rbuf (s : State) : s.clearRecord.rbuf = s.rbuf := rfl
@[simp] theorem State.clearRecord_dev (s : State) : s.clearRecord.dev = s.dev := rfl
@[simp] theorem State.clearRecord_lineKnown (s : State) : s.clearRecord.lineKnown = s.lineKnown := rfl
@[simp] theorem State.clearRecord_inputs (s : State) : s.clearRecord.inputs = s.inputs := rfl
@[simp] theorem State.clearRecord_trace (s : State) : s.clearRecord.trace = s.trace := rfl
@[simp] theorem State.clearRecord_hostLog (s : State) : s.clearRecord.hostLog = s.hostLog := rfl
@[simp] theorem State.clearRecord_freeCtr (s : State) : s.clearRecord.freeCtr = s.freeCtr := rfl

/-! ### startTxn -/

@[simp] theorem State.startTxn_cfg (ph : Phase) (s : State) : (State.startTxn ph s).cfg = s.cfg := rfl
@[simp] theorem State.startTxn_ctl (ph : Phase) (s : State) : (State.startTxn ph s).ctl = s.ctl := rfl
@[simp] theorem State.startTxn_cmd (ph : Phase) (s : State) : (State.startTxn ph s).cmd = s.cmd := rfl
@[simp] theorem State.startTxn_phase (ph : Phase) (s : State) : (State.startTxn ph s).phase = ph := rfl
@[simp] theorem State.startTxn_firstErr (ph : Phase) (s : State) : (State.startTxn ph s).firstErr = none := rfl
@[simp] theorem State.startTxn_rx (ph : Phase) (s : State) : (State.startTxn ph s).rx = [] := rfl
@[simp] theorem State.startTxn_rmwLatch (ph : Phase) (s : State) : (State.startTxn ph s).rmwLatch = s.rmwLatch := rfl
@[simp] theorem State.startTxn_csAsserted (ph : Phase) (s : State) : (State.startTxn ph s).csAsserted = s.csAsserted := rfl
@[simp] theorem State.startTxn_status (ph : Phase) (s : State) : (State.startTxn ph s).status = s.status := rfl
@[simp] theorem State.startTxn_nativeErr (ph : Phase) (s : State) : (State.startTxn ph s).nativeErr = s.nativeErr := rfl
@[simp] theorem State.startTxn_rbuf (ph : Phase) (s : State) : (State.startTxn ph s).rbuf = s.rbuf := rfl
@[simp] theorem State.startTxn_dev (ph : Phase) (s : State) : (State.startTxn ph s).dev = s.dev := rfl
@[simp] theorem State.startTxn_lineKnown (ph : Phase) (s : State) : (State.startTxn ph s).lineKnown = s.lineKnown := rfl
@[simp] theorem State.startTxn_inputs (ph : Phase) (s : State) : (State.startTxn ph s).inputs = s.inputs := rfl
@[simp] theorem State.startTxn_trace (ph : Phase) (s : State) : (State.startTxn ph s).trace = s.trace := rfl
@[simp] theorem State.startTxn_hostLog (ph : Phase) (s : State) : (State.startTxn ph s).hostLog = s.hostLog := rfl
@[simp] theorem State.startTxn_freeCtr (ph : Phase) (s : State) : (State.startTxn ph s).freeCtr = s.freeCtr := rfl

/-! ### startCommand -/

@[simp] theorem State.startCommand_cfg (w : Word) (ph : Phase) (s : State) : (State.startCommand w ph s).cfg = s.cfg := rfl
@[simp] theorem State.startCommand_ctl (w : Word) (ph : Phase) (s : State) : (State.startCommand w ph s).ctl = .busy := rfl
@[simp] theorem State.startCommand_cmd (w : Word) (ph : Phase) (s : State) : (State.startCommand w ph s).cmd = w := rfl
@[simp] theorem State.startCommand_phase (w : Word) (ph : Phase) (s : State) : (State.startCommand w ph s).phase = ph := rfl
@[simp] theorem State.startCommand_firstErr (w : Word) (ph : Phase) (s : State) : (State.startCommand w ph s).firstErr = none := rfl
@[simp] theorem State.startCommand_rx (w : Word) (ph : Phase) (s : State) : (State.startCommand w ph s).rx = [] := rfl
@[simp] theorem State.startCommand_rmwLatch (w : Word) (ph : Phase) (s : State) : (State.startCommand w ph s).rmwLatch = s.rmwLatch := rfl
@[simp] theorem State.startCommand_csAsserted (w : Word) (ph : Phase) (s : State) : (State.startCommand w ph s).csAsserted = s.csAsserted := rfl
@[simp] theorem State.startCommand_status (w : Word) (ph : Phase) (s : State) : (State.startCommand w ph s).status = { s.status with busy := true } := rfl
@[simp] theorem State.startCommand_nativeErr (w : Word) (ph : Phase) (s : State) : (State.startCommand w ph s).nativeErr = s.nativeErr := rfl
@[simp] theorem State.startCommand_rbuf (w : Word) (ph : Phase) (s : State) : (State.startCommand w ph s).rbuf = s.rbuf := rfl
@[simp] theorem State.startCommand_dev (w : Word) (ph : Phase) (s : State) : (State.startCommand w ph s).dev = s.dev := rfl
@[simp] theorem State.startCommand_lineKnown (w : Word) (ph : Phase) (s : State) : (State.startCommand w ph s).lineKnown = s.lineKnown := rfl
@[simp] theorem State.startCommand_inputs (w : Word) (ph : Phase) (s : State) : (State.startCommand w ph s).inputs = s.inputs := rfl
@[simp] theorem State.startCommand_trace (w : Word) (ph : Phase) (s : State) : (State.startCommand w ph s).trace = s.trace := rfl
@[simp] theorem State.startCommand_hostLog (w : Word) (ph : Phase) (s : State) : (State.startCommand w ph s).hostLog = s.hostLog := rfl
@[simp] theorem State.startCommand_freeCtr (w : Word) (ph : Phase) (s : State) : (State.startCommand w ph s).freeCtr = s.freeCtr := rfl

/-! ### complete -/

@[simp] theorem State.complete_cfg (k : ErrKind) (e : Nat) (s : State) : (State.complete k e s).cfg = s.cfg := rfl
@[simp] theorem State.complete_ctl (k : ErrKind) (e : Nat) (s : State) : (State.complete k e s).ctl = .idle := rfl
@[simp] theorem State.complete_cmd (k : ErrKind) (e : Nat) (s : State) : (State.complete k e s).cmd = s.cmd := rfl
@[simp] theorem State.complete_step (k : ErrKind) (e : Nat) (s : State) : (State.complete k e s).step = s.step := rfl
@[simp] theorem State.complete_phase (k : ErrKind) (e : Nat) (s : State) : (State.complete k e s).phase = s.phase := rfl
@[simp] theorem State.complete_firstErr (k : ErrKind) (e : Nat) (s : State) : (State.complete k e s).firstErr = s.firstErr := rfl
@[simp] theorem State.complete_rx (k : ErrKind) (e : Nat) (s : State) : (State.complete k e s).rx = s.rx := rfl
@[simp] theorem State.complete_rmwLatch (k : ErrKind) (e : Nat) (s : State) : (State.complete k e s).rmwLatch = s.rmwLatch := rfl
@[simp] theorem State.complete_csAsserted (k : ErrKind) (e : Nat) (s : State) : (State.complete k e s).csAsserted = s.csAsserted := rfl
@[simp] theorem State.complete_status (k : ErrKind) (e : Nat) (s : State) : (State.complete k e s).status = s.status.completed k := rfl
@[simp] theorem State.complete_nativeErr (k : ErrKind) (e : Nat) (s : State) : (State.complete k e s).nativeErr = captureNative s.cfg.nativeErrW e := rfl
@[simp] theorem State.complete_rbuf (k : ErrKind) (e : Nat) (s : State) : (State.complete k e s).rbuf = s.rbuf := rfl
@[simp] theorem State.complete_dev (k : ErrKind) (e : Nat) (s : State) : (State.complete k e s).dev = s.dev := rfl
@[simp] theorem State.complete_lineKnown (k : ErrKind) (e : Nat) (s : State) : (State.complete k e s).lineKnown = s.lineKnown := rfl
@[simp] theorem State.complete_inputs (k : ErrKind) (e : Nat) (s : State) : (State.complete k e s).inputs = s.inputs := rfl
@[simp] theorem State.complete_trace (k : ErrKind) (e : Nat) (s : State) : (State.complete k e s).trace = s.trace := rfl
@[simp] theorem State.complete_hostLog (k : ErrKind) (e : Nat) (s : State) : (State.complete k e s).hostLog = s.hostLog := rfl
@[simp] theorem State.complete_freeCtr (k : ErrKind) (e : Nat) (s : State) : (State.complete k e s).freeCtr = s.freeCtr := rfl

/-! ### overrun -/

@[simp] theorem State.overrun_cfg (s : State) : s.overrun.cfg = s.cfg := rfl
@[simp] theorem State.overrun_ctl (s : State) : s.overrun.ctl = s.ctl := rfl
@[simp] theorem State.overrun_cmd (s : State) : s.overrun.cmd = s.cmd := rfl
@[simp] theorem State.overrun_step (s : State) : s.overrun.step = s.step := rfl
@[simp] theorem State.overrun_phase (s : State) : s.overrun.phase = s.phase := rfl
@[simp] theorem State.overrun_firstErr (s : State) : s.overrun.firstErr = s.firstErr := rfl
@[simp] theorem State.overrun_rx (s : State) : s.overrun.rx = s.rx := rfl
@[simp] theorem State.overrun_rmwLatch (s : State) : s.overrun.rmwLatch = s.rmwLatch := rfl
@[simp] theorem State.overrun_csAsserted (s : State) : s.overrun.csAsserted = s.csAsserted := rfl
@[simp] theorem State.overrun_status (s : State) : s.overrun.status = { s.status with ovr := true } := rfl
@[simp] theorem State.overrun_nativeErr (s : State) : s.overrun.nativeErr = s.nativeErr := rfl
@[simp] theorem State.overrun_rbuf (s : State) : s.overrun.rbuf = s.rbuf := rfl
@[simp] theorem State.overrun_dev (s : State) : s.overrun.dev = s.dev := rfl
@[simp] theorem State.overrun_lineKnown (s : State) : s.overrun.lineKnown = s.lineKnown := rfl
@[simp] theorem State.overrun_inputs (s : State) : s.overrun.inputs = s.inputs := rfl
@[simp] theorem State.overrun_trace (s : State) : s.overrun.trace = s.trace := rfl
@[simp] theorem State.overrun_hostLog (s : State) : s.overrun.hostLog = s.hostLog := rfl
@[simp] theorem State.overrun_freeCtr (s : State) : s.overrun.freeCtr = s.freeCtr := rfl

/-! ### acceptIllegal -/

@[simp] theorem State.acceptIllegal_cfg (s : State) : s.acceptIllegal.cfg = s.cfg := rfl
@[simp] theorem State.acceptIllegal_ctl (s : State) : s.acceptIllegal.ctl = .idle := rfl
@[simp] theorem State.acceptIllegal_cmd (s : State) : s.acceptIllegal.cmd = s.cmd := rfl
@[simp] theorem State.acceptIllegal_step (s : State) : s.acceptIllegal.step = s.step := rfl
@[simp] theorem State.acceptIllegal_phase (s : State) : s.acceptIllegal.phase = s.phase := rfl
@[simp] theorem State.acceptIllegal_firstErr (s : State) : s.acceptIllegal.firstErr = s.firstErr := rfl
@[simp] theorem State.acceptIllegal_rx (s : State) : s.acceptIllegal.rx = s.rx := rfl
@[simp] theorem State.acceptIllegal_rmwLatch (s : State) : s.acceptIllegal.rmwLatch = s.rmwLatch := rfl
@[simp] theorem State.acceptIllegal_csAsserted (s : State) : s.acceptIllegal.csAsserted = s.csAsserted := rfl
@[simp] theorem State.acceptIllegal_status (s : State) : s.acceptIllegal.status = s.status.cleared.completed .illegal := rfl
@[simp] theorem State.acceptIllegal_nativeErr (s : State) : s.acceptIllegal.nativeErr = captureNative s.cfg.nativeErrW 0 := rfl
@[simp] theorem State.acceptIllegal_rbuf (s : State) : s.acceptIllegal.rbuf = s.rbuf := rfl
@[simp] theorem State.acceptIllegal_dev (s : State) : s.acceptIllegal.dev = s.dev := rfl
@[simp] theorem State.acceptIllegal_lineKnown (s : State) : s.acceptIllegal.lineKnown = s.lineKnown := rfl
@[simp] theorem State.acceptIllegal_inputs (s : State) : s.acceptIllegal.inputs = s.inputs := rfl
@[simp] theorem State.acceptIllegal_trace (s : State) : s.acceptIllegal.trace = s.trace := rfl
@[simp] theorem State.acceptIllegal_hostLog (s : State) : s.acceptIllegal.hostLog = s.hostLog := rfl
@[simp] theorem State.acceptIllegal_freeCtr (s : State) : s.acceptIllegal.freeCtr = s.freeCtr := rfl

/-! ### hostRead -/

@[simp] theorem State.hostRead_cfg (s : State) (w : Nat) (o : BitVec 6) : (s.hostRead w o).cfg = s.cfg := rfl
@[simp] theorem State.hostRead_ctl (s : State) (w : Nat) (o : BitVec 6) : (s.hostRead w o).ctl = s.ctl := rfl
@[simp] theorem State.hostRead_cmd (s : State) (w : Nat) (o : BitVec 6) : (s.hostRead w o).cmd = s.cmd := rfl
@[simp] theorem State.hostRead_step (s : State) (w : Nat) (o : BitVec 6) : (s.hostRead w o).step = s.step := rfl
@[simp] theorem State.hostRead_phase (s : State) (w : Nat) (o : BitVec 6) : (s.hostRead w o).phase = s.phase := rfl
@[simp] theorem State.hostRead_firstErr (s : State) (w : Nat) (o : BitVec 6) : (s.hostRead w o).firstErr = s.firstErr := rfl
@[simp] theorem State.hostRead_rx (s : State) (w : Nat) (o : BitVec 6) : (s.hostRead w o).rx = s.rx := rfl
@[simp] theorem State.hostRead_rmwLatch (s : State) (w : Nat) (o : BitVec 6) : (s.hostRead w o).rmwLatch = s.rmwLatch := rfl
@[simp] theorem State.hostRead_csAsserted (s : State) (w : Nat) (o : BitVec 6) : (s.hostRead w o).csAsserted = s.csAsserted := rfl
@[simp] theorem State.hostRead_status (s : State) (w : Nat) (o : BitVec 6) : (s.hostRead w o).status = s.status := rfl
@[simp] theorem State.hostRead_nativeErr (s : State) (w : Nat) (o : BitVec 6) : (s.hostRead w o).nativeErr = s.nativeErr := rfl
@[simp] theorem State.hostRead_rbuf (s : State) (w : Nat) (o : BitVec 6) : (s.hostRead w o).rbuf = s.rbuf := rfl
@[simp] theorem State.hostRead_dev (s : State) (w : Nat) (o : BitVec 6) : (s.hostRead w o).dev = s.dev := rfl
@[simp] theorem State.hostRead_lineKnown (s : State) (w : Nat) (o : BitVec 6) : (s.hostRead w o).lineKnown = s.lineKnown := rfl
@[simp] theorem State.hostRead_inputs (s : State) (w : Nat) (o : BitVec 6) : (s.hostRead w o).inputs = s.inputs := rfl
@[simp] theorem State.hostRead_trace (s : State) (w : Nat) (o : BitVec 6) : (s.hostRead w o).trace = s.trace := rfl
@[simp] theorem State.hostRead_hostLog (s : State) (w : Nat) (o : BitVec 6) : (s.hostRead w o).hostLog = s.hostLog ++ [⟨w, o, s.hostValue w o⟩] := rfl
@[simp] theorem State.hostRead_freeCtr (s : State) (w : Nat) (o : BitVec 6) : (s.hostRead w o).freeCtr = s.freeCtr := rfl

/-! ### devWrite -/

@[simp] theorem State.devWrite_cfg (s : State) (a : RegAddr) (v : Byte) : (s.devWrite a v).cfg = s.cfg := rfl
@[simp] theorem State.devWrite_ctl (s : State) (a : RegAddr) (v : Byte) : (s.devWrite a v).ctl = s.ctl := rfl
@[simp] theorem State.devWrite_cmd (s : State) (a : RegAddr) (v : Byte) : (s.devWrite a v).cmd = s.cmd := rfl
@[simp] theorem State.devWrite_step (s : State) (a : RegAddr) (v : Byte) : (s.devWrite a v).step = s.step := rfl
@[simp] theorem State.devWrite_phase (s : State) (a : RegAddr) (v : Byte) : (s.devWrite a v).phase = s.phase := rfl
@[simp] theorem State.devWrite_firstErr (s : State) (a : RegAddr) (v : Byte) : (s.devWrite a v).firstErr = s.firstErr := rfl
@[simp] theorem State.devWrite_rx (s : State) (a : RegAddr) (v : Byte) : (s.devWrite a v).rx = s.rx := rfl
@[simp] theorem State.devWrite_rmwLatch (s : State) (a : RegAddr) (v : Byte) : (s.devWrite a v).rmwLatch = s.rmwLatch := rfl
@[simp] theorem State.devWrite_csAsserted (s : State) (a : RegAddr) (v : Byte) : (s.devWrite a v).csAsserted = s.csAsserted := rfl
@[simp] theorem State.devWrite_status (s : State) (a : RegAddr) (v : Byte) : (s.devWrite a v).status = s.status := rfl
@[simp] theorem State.devWrite_nativeErr (s : State) (a : RegAddr) (v : Byte) : (s.devWrite a v).nativeErr = s.nativeErr := rfl
@[simp] theorem State.devWrite_rbuf (s : State) (a : RegAddr) (v : Byte) : (s.devWrite a v).rbuf = s.rbuf := rfl
@[simp] theorem State.devWrite_dev (s : State) (a : RegAddr) (v : Byte) : (s.devWrite a v).dev = s.dev.write a.toNat v := rfl
@[simp] theorem State.devWrite_lineKnown (s : State) (a : RegAddr) (v : Byte) : (s.devWrite a v).lineKnown = s.lineKnown := rfl
@[simp] theorem State.devWrite_inputs (s : State) (a : RegAddr) (v : Byte) : (s.devWrite a v).inputs = s.inputs := rfl
@[simp] theorem State.devWrite_trace (s : State) (a : RegAddr) (v : Byte) : (s.devWrite a v).trace = s.trace := rfl
@[simp] theorem State.devWrite_hostLog (s : State) (a : RegAddr) (v : Byte) : (s.devWrite a v).hostLog = s.hostLog := rfl
@[simp] theorem State.devWrite_freeCtr (s : State) (a : RegAddr) (v : Byte) : (s.devWrite a v).freeCtr = s.freeCtr := rfl

/-! ### drawn -/

@[simp] theorem State.drawn_cfg (s : State) (n : Nat) : (s.drawn n).cfg = s.cfg := rfl
@[simp] theorem State.drawn_ctl (s : State) (n : Nat) : (s.drawn n).ctl = s.ctl := rfl
@[simp] theorem State.drawn_cmd (s : State) (n : Nat) : (s.drawn n).cmd = s.cmd := rfl
@[simp] theorem State.drawn_step (s : State) (n : Nat) : (s.drawn n).step = s.step := rfl
@[simp] theorem State.drawn_phase (s : State) (n : Nat) : (s.drawn n).phase = s.phase := rfl
@[simp] theorem State.drawn_firstErr (s : State) (n : Nat) : (s.drawn n).firstErr = s.firstErr := rfl
@[simp] theorem State.drawn_rx (s : State) (n : Nat) : (s.drawn n).rx = s.rx := rfl
@[simp] theorem State.drawn_rmwLatch (s : State) (n : Nat) : (s.drawn n).rmwLatch = s.rmwLatch := rfl
@[simp] theorem State.drawn_csAsserted (s : State) (n : Nat) : (s.drawn n).csAsserted = s.csAsserted := rfl
@[simp] theorem State.drawn_status (s : State) (n : Nat) : (s.drawn n).status = s.status := rfl
@[simp] theorem State.drawn_nativeErr (s : State) (n : Nat) : (s.drawn n).nativeErr = s.nativeErr := rfl
@[simp] theorem State.drawn_rbuf (s : State) (n : Nat) : (s.drawn n).rbuf = s.rbuf := rfl
@[simp] theorem State.drawn_dev (s : State) (n : Nat) : (s.drawn n).dev = s.dev := rfl
@[simp] theorem State.drawn_lineKnown (s : State) (n : Nat) : (s.drawn n).lineKnown = s.lineKnown := rfl
@[simp] theorem State.drawn_inputs (s : State) (n : Nat) : (s.drawn n).inputs = s.inputs := rfl
@[simp] theorem State.drawn_trace (s : State) (n : Nat) : (s.drawn n).trace = s.trace := rfl
@[simp] theorem State.drawn_hostLog (s : State) (n : Nat) : (s.drawn n).hostLog = s.hostLog := rfl
@[simp] theorem State.drawn_freeCtr (s : State) (n : Nat) : (s.drawn n).freeCtr = s.freeCtr + n := rfl

/-! ### devUnspecified -/

@[simp] theorem State.devUnspecified_cfg (s : State) (a : RegAddr) : (s.devUnspecified a).cfg = s.cfg := rfl
@[simp] theorem State.devUnspecified_ctl (s : State) (a : RegAddr) : (s.devUnspecified a).ctl = s.ctl := rfl
@[simp] theorem State.devUnspecified_cmd (s : State) (a : RegAddr) : (s.devUnspecified a).cmd = s.cmd := rfl
@[simp] theorem State.devUnspecified_step (s : State) (a : RegAddr) : (s.devUnspecified a).step = s.step := rfl
@[simp] theorem State.devUnspecified_phase (s : State) (a : RegAddr) : (s.devUnspecified a).phase = s.phase := rfl
@[simp] theorem State.devUnspecified_firstErr (s : State) (a : RegAddr) : (s.devUnspecified a).firstErr = s.firstErr := rfl
@[simp] theorem State.devUnspecified_rx (s : State) (a : RegAddr) : (s.devUnspecified a).rx = s.rx := rfl
@[simp] theorem State.devUnspecified_rmwLatch (s : State) (a : RegAddr) : (s.devUnspecified a).rmwLatch = s.rmwLatch := rfl
@[simp] theorem State.devUnspecified_csAsserted (s : State) (a : RegAddr) : (s.devUnspecified a).csAsserted = s.csAsserted := rfl
@[simp] theorem State.devUnspecified_status (s : State) (a : RegAddr) : (s.devUnspecified a).status = s.status := rfl
@[simp] theorem State.devUnspecified_nativeErr (s : State) (a : RegAddr) : (s.devUnspecified a).nativeErr = s.nativeErr := rfl
@[simp] theorem State.devUnspecified_rbuf (s : State) (a : RegAddr) : (s.devUnspecified a).rbuf = s.rbuf := rfl
@[simp] theorem State.devUnspecified_dev (s : State) (a : RegAddr) : (s.devUnspecified a).dev = s.dev.write a.toNat (Config.freeByte s.freeCtr) := rfl
@[simp] theorem State.devUnspecified_lineKnown (s : State) (a : RegAddr) : (s.devUnspecified a).lineKnown = s.lineKnown := rfl
@[simp] theorem State.devUnspecified_inputs (s : State) (a : RegAddr) : (s.devUnspecified a).inputs = s.inputs := rfl
@[simp] theorem State.devUnspecified_trace (s : State) (a : RegAddr) : (s.devUnspecified a).trace = s.trace := rfl
@[simp] theorem State.devUnspecified_hostLog (s : State) (a : RegAddr) : (s.devUnspecified a).hostLog = s.hostLog := rfl
@[simp] theorem State.devUnspecified_freeCtr (s : State) (a : RegAddr) : (s.devUnspecified a).freeCtr = s.freeCtr + 1 := rfl

/-! ### rbufUnspecified -/

@[simp] theorem State.rbufUnspecified_cfg (s : State) (n : Nat) : (s.rbufUnspecified n).cfg = s.cfg := rfl
@[simp] theorem State.rbufUnspecified_ctl (s : State) (n : Nat) : (s.rbufUnspecified n).ctl = s.ctl := rfl
@[simp] theorem State.rbufUnspecified_cmd (s : State) (n : Nat) : (s.rbufUnspecified n).cmd = s.cmd := rfl
@[simp] theorem State.rbufUnspecified_step (s : State) (n : Nat) : (s.rbufUnspecified n).step = s.step := rfl
@[simp] theorem State.rbufUnspecified_phase (s : State) (n : Nat) : (s.rbufUnspecified n).phase = s.phase := rfl
@[simp] theorem State.rbufUnspecified_firstErr (s : State) (n : Nat) : (s.rbufUnspecified n).firstErr = s.firstErr := rfl
@[simp] theorem State.rbufUnspecified_rx (s : State) (n : Nat) : (s.rbufUnspecified n).rx = s.rx := rfl
@[simp] theorem State.rbufUnspecified_rmwLatch (s : State) (n : Nat) : (s.rbufUnspecified n).rmwLatch = s.rmwLatch := rfl
@[simp] theorem State.rbufUnspecified_csAsserted (s : State) (n : Nat) : (s.rbufUnspecified n).csAsserted = s.csAsserted := rfl
@[simp] theorem State.rbufUnspecified_status (s : State) (n : Nat) : (s.rbufUnspecified n).status = s.status := rfl
@[simp] theorem State.rbufUnspecified_nativeErr (s : State) (n : Nat) : (s.rbufUnspecified n).nativeErr = s.nativeErr := rfl
@[simp] theorem State.rbufUnspecified_rbuf (s : State) (n : Nat) : (s.rbufUnspecified n).rbuf = overwritePrefix (s.freeBytes n) s.rbuf := rfl
@[simp] theorem State.rbufUnspecified_dev (s : State) (n : Nat) : (s.rbufUnspecified n).dev = s.dev := rfl
@[simp] theorem State.rbufUnspecified_lineKnown (s : State) (n : Nat) : (s.rbufUnspecified n).lineKnown = s.lineKnown := rfl
@[simp] theorem State.rbufUnspecified_inputs (s : State) (n : Nat) : (s.rbufUnspecified n).inputs = s.inputs := rfl
@[simp] theorem State.rbufUnspecified_trace (s : State) (n : Nat) : (s.rbufUnspecified n).trace = s.trace := rfl
@[simp] theorem State.rbufUnspecified_hostLog (s : State) (n : Nat) : (s.rbufUnspecified n).hostLog = s.hostLog := rfl
@[simp] theorem State.rbufUnspecified_freeCtr (s : State) (n : Nat) : (s.rbufUnspecified n).freeCtr = s.freeCtr + n := rfl

/-! ### record -/

@[simp] theorem State.record_cfg (pr : Prim) (rep : Reply) (s : State) : (State.record pr rep s).cfg = s.cfg := rfl
@[simp] theorem State.record_ctl (pr : Prim) (rep : Reply) (s : State) : (State.record pr rep s).ctl = s.ctl := rfl
@[simp] theorem State.record_cmd (pr : Prim) (rep : Reply) (s : State) : (State.record pr rep s).cmd = s.cmd := rfl
@[simp] theorem State.record_step (pr : Prim) (rep : Reply) (s : State) : (State.record pr rep s).step = s.step := rfl
@[simp] theorem State.record_phase (pr : Prim) (rep : Reply) (s : State) : (State.record pr rep s).phase = s.phase := rfl
@[simp] theorem State.record_firstErr (pr : Prim) (rep : Reply) (s : State) : (State.record pr rep s).firstErr = s.firstErr := rfl
@[simp] theorem State.record_rx (pr : Prim) (rep : Reply) (s : State) : (State.record pr rep s).rx = s.rx := rfl
@[simp] theorem State.record_rmwLatch (pr : Prim) (rep : Reply) (s : State) : (State.record pr rep s).rmwLatch = s.rmwLatch := rfl
@[simp] theorem State.record_csAsserted (pr : Prim) (rep : Reply) (s : State) : (State.record pr rep s).csAsserted = s.csAsserted := rfl
@[simp] theorem State.record_status (pr : Prim) (rep : Reply) (s : State) : (State.record pr rep s).status = s.status := rfl
@[simp] theorem State.record_nativeErr (pr : Prim) (rep : Reply) (s : State) : (State.record pr rep s).nativeErr = s.nativeErr := rfl
@[simp] theorem State.record_rbuf (pr : Prim) (rep : Reply) (s : State) : (State.record pr rep s).rbuf = s.rbuf := rfl
@[simp] theorem State.record_dev (pr : Prim) (rep : Reply) (s : State) : (State.record pr rep s).dev = s.dev := rfl
@[simp] theorem State.record_lineKnown (pr : Prim) (rep : Reply) (s : State) : (State.record pr rep s).lineKnown = s.lineKnown := rfl
@[simp] theorem State.record_inputs (pr : Prim) (rep : Reply) (s : State) : (State.record pr rep s).inputs = s.inputs := rfl
@[simp] theorem State.record_trace (pr : Prim) (rep : Reply) (s : State) : (State.record pr rep s).trace = s.trace ++ [⟨pr, some rep⟩] := rfl
@[simp] theorem State.record_hostLog (pr : Prim) (rep : Reply) (s : State) : (State.record pr rep s).hostLog = s.hostLog := rfl
@[simp] theorem State.record_freeCtr (pr : Prim) (rep : Reply) (s : State) : (State.record pr rep s).freeCtr = s.freeCtr := rfl

/-! ### abandon -/

@[simp] theorem State.abandon_cfg (pr : Prim) (s : State) : (s.abandon pr).cfg = s.cfg := rfl
@[simp] theorem State.abandon_ctl (pr : Prim) (s : State) : (s.abandon pr).ctl = s.ctl := rfl
@[simp] theorem State.abandon_cmd (pr : Prim) (s : State) : (s.abandon pr).cmd = s.cmd := rfl
@[simp] theorem State.abandon_step (pr : Prim) (s : State) : (s.abandon pr).step = s.step := rfl
@[simp] theorem State.abandon_phase (pr : Prim) (s : State) : (s.abandon pr).phase = s.phase := rfl
@[simp] theorem State.abandon_firstErr (pr : Prim) (s : State) : (s.abandon pr).firstErr = s.firstErr := rfl
@[simp] theorem State.abandon_rx (pr : Prim) (s : State) : (s.abandon pr).rx = s.rx := rfl
@[simp] theorem State.abandon_rmwLatch (pr : Prim) (s : State) : (s.abandon pr).rmwLatch = s.rmwLatch := rfl
@[simp] theorem State.abandon_csAsserted (pr : Prim) (s : State) : (s.abandon pr).csAsserted = s.csAsserted := rfl
@[simp] theorem State.abandon_status (pr : Prim) (s : State) : (s.abandon pr).status = s.status := rfl
@[simp] theorem State.abandon_nativeErr (pr : Prim) (s : State) : (s.abandon pr).nativeErr = s.nativeErr := rfl
@[simp] theorem State.abandon_rbuf (pr : Prim) (s : State) : (s.abandon pr).rbuf = s.rbuf := rfl
@[simp] theorem State.abandon_dev (pr : Prim) (s : State) : (s.abandon pr).dev = s.dev := rfl
@[simp] theorem State.abandon_lineKnown (pr : Prim) (s : State) : (s.abandon pr).lineKnown = s.lineKnown := rfl
@[simp] theorem State.abandon_inputs (pr : Prim) (s : State) : (s.abandon pr).inputs = s.inputs := rfl
@[simp] theorem State.abandon_trace (pr : Prim) (s : State) : (s.abandon pr).trace = s.trace ++ [⟨pr, none⟩] := rfl
@[simp] theorem State.abandon_hostLog (pr : Prim) (s : State) : (s.abandon pr).hostLog = s.hostLog := rfl
@[simp] theorem State.abandon_freeCtr (pr : Prim) (s : State) : (s.abandon pr).freeCtr = s.freeCtr := rfl

/-! ### storeReceived -/

@[simp] theorem State.storeReceived_cfg (s : State) : s.storeReceived.cfg = s.cfg := rfl
@[simp] theorem State.storeReceived_ctl (s : State) : s.storeReceived.ctl = s.ctl := rfl
@[simp] theorem State.storeReceived_cmd (s : State) : s.storeReceived.cmd = s.cmd := rfl
@[simp] theorem State.storeReceived_step (s : State) : s.storeReceived.step = s.step := rfl
@[simp] theorem State.storeReceived_phase (s : State) : s.storeReceived.phase = s.phase := rfl
@[simp] theorem State.storeReceived_firstErr (s : State) : s.storeReceived.firstErr = s.firstErr := rfl
@[simp] theorem State.storeReceived_rx (s : State) : s.storeReceived.rx = s.rx := rfl
@[simp] theorem State.storeReceived_rmwLatch (s : State) : s.storeReceived.rmwLatch = s.rmwLatch := rfl
@[simp] theorem State.storeReceived_csAsserted (s : State) : s.storeReceived.csAsserted = s.csAsserted := rfl
@[simp] theorem State.storeReceived_status (s : State) : s.storeReceived.status = s.status := rfl
@[simp] theorem State.storeReceived_nativeErr (s : State) : s.storeReceived.nativeErr = s.nativeErr := rfl
@[simp] theorem State.storeReceived_rbuf (s : State) : s.storeReceived.rbuf = overwritePrefix s.rx s.rbuf := rfl
@[simp] theorem State.storeReceived_dev (s : State) : s.storeReceived.dev = s.dev := rfl
@[simp] theorem State.storeReceived_lineKnown (s : State) : s.storeReceived.lineKnown = s.lineKnown := rfl
@[simp] theorem State.storeReceived_inputs (s : State) : s.storeReceived.inputs = s.inputs := rfl
@[simp] theorem State.storeReceived_trace (s : State) : s.storeReceived.trace = s.trace := rfl
@[simp] theorem State.storeReceived_hostLog (s : State) : s.storeReceived.hostLog = s.hostLog := rfl
@[simp] theorem State.storeReceived_freeCtr (s : State) : s.storeReceived.freeCtr = s.freeCtr := rfl

/-! ### toWritePhase -/

@[simp] theorem State.toWritePhase_cfg (s : State) : s.toWritePhase.cfg = s.cfg := rfl
@[simp] theorem State.toWritePhase_ctl (s : State) : s.toWritePhase.ctl = s.ctl := rfl
@[simp] theorem State.toWritePhase_cmd (s : State) : s.toWritePhase.cmd = s.cmd := rfl
@[simp] theorem State.toWritePhase_phase (s : State) : s.toWritePhase.phase = .write := rfl
@[simp] theorem State.toWritePhase_firstErr (s : State) : s.toWritePhase.firstErr = none := rfl
@[simp] theorem State.toWritePhase_rx (s : State) : s.toWritePhase.rx = [] := rfl
@[simp] theorem State.toWritePhase_rmwLatch (s : State) : s.toWritePhase.rmwLatch = s.rx.headD 0 := rfl
@[simp] theorem State.toWritePhase_csAsserted (s : State) : s.toWritePhase.csAsserted = s.csAsserted := rfl
@[simp] theorem State.toWritePhase_status (s : State) : s.toWritePhase.status = s.status := rfl
@[simp] theorem State.toWritePhase_nativeErr (s : State) : s.toWritePhase.nativeErr = s.nativeErr := rfl
@[simp] theorem State.toWritePhase_rbuf (s : State) : s.toWritePhase.rbuf = s.rbuf := rfl
@[simp] theorem State.toWritePhase_dev (s : State) : s.toWritePhase.dev = s.dev := rfl
@[simp] theorem State.toWritePhase_lineKnown (s : State) : s.toWritePhase.lineKnown = s.lineKnown := rfl
@[simp] theorem State.toWritePhase_inputs (s : State) : s.toWritePhase.inputs = s.inputs := rfl
@[simp] theorem State.toWritePhase_trace (s : State) : s.toWritePhase.trace = s.trace := rfl
@[simp] theorem State.toWritePhase_hostLog (s : State) : s.toWritePhase.hostLog = s.hostLog := rfl
@[simp] theorem State.toWritePhase_freeCtr (s : State) : s.toWritePhase.freeCtr = s.freeCtr := rfl

/-! ### The first step of a transaction -/

theorem State.startTxn_step (ph : Phase) (s : State) :
    (State.startTxn ph s).step = if s.cfg.transport = .framed then .fAssert else .aXfer := by
  unfold State.startTxn
  cases s.cfg.transport <;> rfl

theorem State.startCommand_step (w : Word) (ph : Phase) (s : State) :
    (State.startCommand w ph s).step = if s.cfg.transport = .framed then .fAssert else .aXfer :=
  State.startTxn_step _ _

theorem State.toWritePhase_step (s : State) :
    s.toWritePhase.step = if s.cfg.transport = .framed then .fAssert else .aXfer :=
  State.startTxn_step _ _

/-! ### Block reset: the fields R39 gives a value -/

@[simp] theorem State.blockReset_cfg (s : State) : s.blockReset.cfg = s.cfg := by
  unfold State.blockReset; split <;> rfl

@[simp] theorem State.blockReset_ctl (s : State) : s.blockReset.ctl = .idle := by
  unfold State.blockReset; split <;> rfl

@[simp] theorem State.blockReset_csAsserted (s : State) : s.blockReset.csAsserted = false := by
  unfold State.blockReset; split <;> rfl

@[simp] theorem State.blockReset_status (s : State) : s.blockReset.status = Status.reset := by
  unfold State.blockReset; split <;> rfl

@[simp] theorem State.blockReset_nativeErr (s : State) : s.blockReset.nativeErr = 0 := by
  unfold State.blockReset; split <;> rfl

@[simp] theorem State.blockReset_inputs (s : State) : s.blockReset.inputs = s.inputs := by
  unfold State.blockReset; split <;> rfl

@[simp] theorem State.blockReset_trace (s : State) : s.blockReset.trace = s.trace := by
  unfold State.blockReset; split <;> rfl

@[simp] theorem State.blockReset_hostLog (s : State) : s.blockReset.hostLog = s.hostLog := by
  unfold State.blockReset; split <;> rfl

@[simp] theorem State.blockReset_rbuf_length (s : State) : s.blockReset.rbuf.length = s.cfg.maxBurst := by
  unfold State.blockReset; split <;> simp [State.resetBlock, State.freeBytes]

theorem State.blockReset_dev (s : State) :
    s.blockReset.dev = s.dev ∨
      s.blockReset.dev = s.dev.write (regField s.cmd).toNat (Config.freeByte s.freeCtr) := by
  unfold State.blockReset; split
  · exact .inr rfl
  · exact .inl rfl

end Sys2Proof.Machine
end

