-- ==== Sys2Proof/Laws/Memory.lean ====
section
/-! SUPPORT. The registers of the reference device: a read after a write, and every operation keeps the canonical
form. -/

namespace Sys2Proof.Machine

namespace Memory

theorem read_of_lt {a : Nat} {m : Memory} (h : ∀ c ∈ m, a < c.1) : Memory.read a m = Memory.unlisted := by
  induction m with
  | nil => rfl
  | cons c m ih =>
    have hc := h c (by simp)
    rw [Memory.read, if_neg (by omega)]
    exact ih fun d hd => h d (by simp [hd])

theorem read_insert (a b : Nat) (v : Byte) (m : Memory) :
    Memory.read b (Memory.insert a v m) = if b = a then v else Memory.read b m := by
  induction m with
  | nil =>
    by_cases h : a = b
    · simp [Memory.insert, Memory.read, h]
    · have : b ≠ a := fun e => h e.symm
      simp [Memory.insert, Memory.read, h, this]
  | cons c m ih =>
    by_cases h : a = b
    · subst h
      unfold Memory.insert
      split
      · simp [Memory.read]
      · split
        · simp [Memory.read]
        · have : c.1 ≠ a := by omega
          simp [Memory.read, this, ih]
    · have hb : b ≠ a := fun e => h e.symm
      rw [if_neg hb] at ih ⊢
      unfold Memory.insert
      split
      · simp [Memory.read, h]
      · split
        · have : c.1 ≠ b := by omega
          simp [Memory.read, h, this]
        · by_cases hc : c.1 = b <;> simp [Memory.read, hc, ih]

theorem read_erase {m : Memory} (hm : m.Pairwise (fun c d => c.1 < d.1)) (a b : Nat) :
    Memory.read b (Memory.erase a m) = if b = a then Memory.unlisted else Memory.read b m := by
  induction m with
  | nil => simp [Memory.erase, Memory.read]
  | cons c m ih =>
    have hp := List.pairwise_cons.mp hm
    unfold Memory.erase
    split
    · rename_i h
      by_cases hb : b = a
      · rw [if_pos hb, hb]
        exact read_of_lt fun d hd => h ▸ hp.1 d hd
      · have : c.1 ≠ b := by omega
        simp [Memory.read, hb, this]
    · rename_i h
      by_cases hb : c.1 = b
      · have : b ≠ a := by omega
        simp [Memory.read, hb, this]
      · simp [Memory.read, hb, ih hp.2]

/-- A read after a write: the value written there, every other register as before. -/
theorem read_write {m : Memory} (hm : m.wf) (a b : Nat) (v : Byte) :
    Memory.read b (Memory.write a v m) = if b = a then v else Memory.read b m := by
  unfold Memory.write
  split
  · rename_i h
    rw [read_erase hm.1, h]
  · exact read_insert a b v m

theorem mem_insert {a : Nat} {v : Byte} {m : Memory} {c : Host.Cell} (h : c ∈ Memory.insert a v m) :
    c = (a, v) ∨ c ∈ m := by
  induction m with
  | nil => simpa [Memory.insert] using h
  | cons d m ih =>
    unfold Memory.insert at h
    split at h
    · simpa using h
    · split at h
      · simp only [List.mem_cons] at h ⊢
        tauto
      · simp only [List.mem_cons] at h ⊢
        rcases h with h | h
        · tauto
        · rcases ih h with h | h <;> tauto

theorem mem_erase {a : Nat} {m : Memory} {c : Host.Cell} (h : c ∈ Memory.erase a m) : c ∈ m := by
  induction m with
  | nil => simp [Memory.erase] at h
  | cons d m ih =>
    unfold Memory.erase at h
    split at h
    · simp [h]
    · simp only [List.mem_cons] at h ⊢
      rcases h with h | h
      · exact .inl h
      · exact .inr (ih h)

theorem pairwise_insert {m : Memory} (hm : m.Pairwise (fun c d => c.1 < d.1)) (a : Nat) (v : Byte) :
    (Memory.insert a v m).Pairwise (fun c d => c.1 < d.1) := by
  induction m with
  | nil => simp [Memory.insert]
  | cons c m ih =>
    have hp := List.pairwise_cons.mp hm
    unfold Memory.insert
    split
    · rename_i h
      refine List.pairwise_cons.mpr ⟨fun d hd => ?_, hm⟩
      rcases List.mem_cons.mp hd with rfl | hd
      · exact h
      · exact lt_trans h (hp.1 d hd)
    · split
      · rename_i h
        exact List.pairwise_cons.mpr ⟨fun d hd => by rw [h]; exact hp.1 d hd, hp.2⟩
      · refine List.pairwise_cons.mpr ⟨fun d hd => ?_, ih hp.2⟩
        rcases mem_insert hd with rfl | hd
        · show c.1 < a
          omega
        · exact hp.1 d hd

theorem pairwise_erase {m : Memory} (hm : m.Pairwise (fun c d => c.1 < d.1)) (a : Nat) :
    (Memory.erase a m).Pairwise (fun c d => c.1 < d.1) := by
  induction m with
  | nil => simp [Memory.erase]
  | cons c m ih =>
    have hp := List.pairwise_cons.mp hm
    unfold Memory.erase
    split
    · exact hp.2
    · exact List.pairwise_cons.mpr ⟨fun d hd => hp.1 d (mem_erase hd), ih hp.2⟩

/-- Every write keeps the canonical form. -/
theorem wf_write {m : Memory} (hm : m.wf) {a : Nat} (ha : a < 128) (v : Byte) : (Memory.write a v m).wf := by
  unfold Memory.write
  split
  · exact ⟨pairwise_erase hm.1 a, fun c hc => hm.2 c (mem_erase hc)⟩
  · rename_i hv
    refine ⟨pairwise_insert hm.1 a v, fun c hc => ?_⟩
    rcases mem_insert hc with rfl | hc
    · exact ⟨ha, hv⟩
    · exact hm.2 c hc

theorem wf_nil : Memory.wf [] := ⟨List.Pairwise.nil, fun _ h => nomatch h⟩

end Memory

theorem State.devWrite_wf {s : State} (h : s.dev.wf) (a : RegAddr) (v : Byte) : (s.devWrite a v).dev.wf :=
  Memory.wf_write h a.isLt v

theorem State.devUnspecified_wf {s : State} (h : s.dev.wf) (a : RegAddr) : (s.devUnspecified a).dev.wf :=
  Memory.wf_write h a.isLt _

theorem State.blockReset_wf {s : State} (h : s.dev.wf) : s.blockReset.dev.wf := by
  rcases s.blockReset_dev with e | e <;> rw [e]
  · exact h
  · exact Memory.wf_write h (BitVec.isLt _) _

theorem State.devRead_devWrite {s : State} (h : s.dev.wf) (a b : RegAddr) (v : Byte) :
    (s.devWrite a v).devRead b = if b = a then v else s.devRead b := by
  unfold State.devRead
  rw [State.devWrite_dev, Memory.read_write h]
  simp [BitVec.toNat_inj]

theorem State.devRead_devUnspecified {s : State} (h : s.dev.wf) {a b : RegAddr} (ne : b ≠ a) :
    (s.devUnspecified a).devRead b = s.devRead b := by
  unfold State.devRead
  rw [State.devUnspecified_dev, Memory.read_write h, if_neg]
  exact fun e => ne (BitVec.eq_of_toNat_eq e)

end Sys2Proof.Machine
end

