-- ==== Sys2Proof/Laws/Transport.lean ====
section
/-! SUPPORT. What the sequencer's shared operations can do, said once: the return of a primitive, the controller's
move, one event, a whole run. -/

namespace Sys2Proof.Machine

/-! ### The outside hears a primitive -/

/-- `heardWrite` changes the reference device and the draws only. -/
theorem State.heardWrite_eq (sure : Bool) (bytes : List Byte) (rep : Reply) (s : State) :
    s.heardWrite sure bytes rep =
      { s with
        dev := (s.heardWrite sure bytes rep).dev
        freeCtr := (s.heardWrite sure bytes rep).freeCtr } := by
  unfold State.heardWrite
  split
  · split <;> rfl
  · rfl

/-- `wire` changes what stands outside the block only. -/
theorem State.wire_eq (pr : Prim) (rep : Reply) (s : State) :
    s.wire pr rep =
      { s with
        dev := (s.wire pr rep).dev
        lineKnown := (s.wire pr rep).lineKnown
        freeCtr := (s.wire pr rep).freeCtr } := by
  cases pr <;> cases rep <;> first | rfl | (simp only [State.wire]; rw [State.heardWrite_eq])

/-- A return changes what stands outside the block, and adds the primitive to the trace. -/
theorem State.returned_eq (pr : Prim) (rep : Reply) (s : State) :
    s.returned pr rep =
      { s with
        dev := (s.wire pr rep).dev
        lineKnown := (s.wire pr rep).lineKnown
        freeCtr := (s.wire pr rep).freeCtr
        trace := s.trace ++ [⟨pr, some rep⟩] } := by
  unfold State.returned State.record
  rw [State.wire_eq]

theorem State.heardWrite_wf {s : State} (h : s.dev.wf) (sure : Bool) (bytes : List Byte) (rep : Reply) :
    (s.heardWrite sure bytes rep).dev.wf := by
  unfold State.heardWrite
  split
  · split
    · exact State.devWrite_wf h _ _
    · exact State.devUnspecified_wf h _
    · exact State.devUnspecified_wf h _
  · exact h

theorem State.wire_wf {s : State} (h : s.dev.wf) (pr : Prim) (rep : Reply) : (s.wire pr rep).dev.wf := by
  cases pr <;> cases rep <;> first | exact h | exact State.heardWrite_wf h _ _ _

/-- A failed assert or release changes the reference device and the draws only. -/
theorem Plan.unsureWrite_eq (p : Plan) (s : State) :
    p.unsureWrite s = { s with dev := (p.unsureWrite s).dev, freeCtr := (p.unsureWrite s).freeCtr } := by
  unfold Plan.unsureWrite
  split <;> rfl

theorem Plan.unsureWrite_wf (p : Plan) {s : State} (h : s.dev.wf) : (p.unsureWrite s).dev.wf := by
  unfold Plan.unsureWrite
  split
  · exact State.devUnspecified_wf h _
  · exact h

/-- A failed assert or release leaves every register but the one the command names. -/
theorem Plan.devRead_unsureWrite (p : Plan) {s : State} (h : s.dev.wf) {a : RegAddr} (ne : a ≠ p.reg) :
    (p.unsureWrite s).devRead a = s.devRead a := by
  unfold Plan.unsureWrite
  split
  · exact State.devRead_devUnspecified h ne
  · rfl

/-! ### The return of a primitive -/

/-- All that a primitive's return can be: it is a return event, the block itself is unchanged, the trace grows by the
primitive and its result, and an Ok carries as many bytes as asked for (R100, R113, R119). -/
theorem perform_spec {reg : RegAddr} {pr : Prim} {e : Event} {s s' : State} {rep : Reply}
    (h : perform reg pr e s = .ok (rep, s')) :
    e.isReturn = true ∧ (∀ R, rep = .ok R → R.length = pr.expects) ∧
      s' =
        { s with
          dev := s'.dev
          lineKnown := s'.lineKnown
          freeCtr := s'.freeCtr
          trace := s.trace ++ [⟨pr, some rep⟩] } := by
  cases e with
  | clock =>
    simp only [perform] at h
    split at h
    · rename_i hd
      cases h
      refine ⟨rfl, ?_, State.returned_eq _ _ _⟩
      rintro R ⟨⟩
      cases pr <;> simp_all [Prim.isDelay, Prim.expects]
    · cases h
  | answer a =>
    simp only [perform] at h
    split at h
    · cases h
    · unfold answered at h
      split at h
      · split at h
        · cases h
          refine ⟨rfl, ?_, State.returned_eq _ _ _⟩
          rintro R ⟨⟩
        · cases h
      · split at h
        · rename_i hl
          cases h
          refine ⟨rfl, ?_, State.returned_eq _ _ _⟩
          rintro R ⟨⟩
          exact hl
        · cases h
      · split at h
        · cases h
          refine ⟨rfl, ?_, State.returned_eq _ _ _⟩
          rintro R ⟨⟩
          simp [State.devBurst]
        · cases h
          refine ⟨rfl, ?_, State.returned_eq _ _ _⟩
          rintro R ⟨⟩
          simp [State.freeBytes]
  | hostWrite _ _ _ => cases h
  | hostRead _ _ => cases h
  | blockReset => cases h
  | device _ _ => cases h
  | otherMaster => cases h

theorem perform_wf {reg : RegAddr} {pr : Prim} {e : Event} {s s' : State} {rep : Reply}
    (h : perform reg pr e s = .ok (rep, s')) (hw : s.dev.wf) : s'.dev.wf := by
  cases e with
  | clock =>
    simp only [perform] at h
    split at h <;> cases h
    exact State.wire_wf hw _ _
  | answer a =>
    simp only [perform] at h
    split at h
    · cases h
    · unfold answered at h
      split at h
      · split at h <;> cases h
        exact State.wire_wf hw _ _
      · split at h <;> cases h
        exact State.wire_wf hw _ _
      · split at h <;> cases h
        · exact State.wire_wf hw _ _
        · exact State.wire_wf (s := s.drawn _) hw _ _
  | hostWrite _ _ _ => cases h
  | hostRead _ _ => cases h
  | blockReset => cases h
  | device _ _ => cases h
  | otherMaster => cases h

/-! ### One event -/

/-- All that one event can do to a command in flight. -/
theorem land_cases {p : Plan} {e : Event} {s t : State} (h : land p e s = .next t) :
    (∃ width off w, e = .hostWrite width off w ∧ t = if isCmdWrite width off then s.overrun else s) ∨
    (∃ width off, e = .hostRead width off ∧ t = s.hostRead width off) ∨
    (e = .blockReset ∧ t = (s.abandon (p.prim s)).blockReset) ∨
    (∃ a v, e = .device a v ∧ t = s.devWrite a v) ∨
    (∃ rep s', perform p.reg (p.prim s) e s = .ok (rep, s') ∧ t = p.advance rep s') := by
  cases e with
  | hostWrite width off w =>
    simp only [land] at h
    cases h
    exact .inl ⟨width, off, w, rfl, rfl⟩
  | hostRead width off =>
    cases h
    exact .inr (.inl ⟨width, off, rfl, rfl⟩)
  | blockReset =>
    cases h
    exact .inr (.inr (.inl ⟨rfl, rfl⟩))
  | device a v =>
    cases h
    exact .inr (.inr (.inr (.inl ⟨a, v, rfl, rfl⟩)))
  | otherMaster => cases h
  | answer a =>
    simp only [land] at h
    split at h
    · rename_i hp
      cases h
      exact .inr (.inr (.inr (.inr ⟨_, _, hp, rfl⟩)))
    · cases h
  | clock =>
    simp only [land] at h
    split at h
    · rename_i hp
      cases h
      exact .inr (.inr (.inr (.inr ⟨_, _, hp, rfl⟩)))
    · cases h

/-- No event faults. -/
theorem land_ne_fault (p : Plan) (e : Event) (s : State) (f : Fault) : land p e s ≠ .fault f := by
  cases e <;> simp only [land, bystander, ne_eq, reduceCtorEq, not_false_eq_true]
  all_goals split <;> simp

/-! ### A whole run -/

/-- What every event keeps, a run keeps. -/
theorem drive_keeps {p : Plan} {P : State → Prop}
    (hP : ∀ e es s t, s.ctl = .busy → P s → land p e { s with inputs := es } = .next t → P t)
    {l : List Event} {s t : State} (h : drive p l s = .next t) (hs : P s) : P t := by
  induction l generalizing s with
  | nil => cases h; exact hs
  | cons e es ih =>
    simp only [drive] at h
    split at h
    · cases h; exact hs
    · rename_i hb
      split at h
      · rename_i s' hl
        exact ih h (hP e es s s' hb hs hl)
      · cases h
      · cases h

/-- No run faults. -/
theorem drive_ne_fault (p : Plan) (l : List Event) (s : State) (f : Fault) : drive p l s ≠ .fault f := by
  induction l generalizing s with
  | nil => simp [drive]
  | cons e es ih =>
    simp only [drive]
    split
    · simp
    · split
      · exact ih _
      · rename_i hl
        exact absurd hl (land_ne_fault _ _ _ _)
      · simp

@[simp] theorem drive_idle (p : Plan) (l : List Event) {s : State} (h : s.ctl = .idle) : drive p l s = .next s := by
  cases l <;> simp [drive, h]

theorem drive_busy (p : Plan) (e : Event) (es : List Event) {s : State} (h : s.ctl = .busy) :
    drive p (e :: es) s =
      match land p e { s with inputs := es } with
      | .next s' => drive p es s'
      | .fault f => .fault f
      | .refused r => .refused r := by
  cases s
  simp only at h
  subst h
  rfl

/-! ### The four plans -/

/-- The names `exec` gives its meanings. -/
theorem exec_eq_runCommand (i : Instr) (s : State) : exec i s = runCommand i (planOf i) s := by
  cases i <;> rfl

/-- A command accepted by the idle block. -/
theorem exec_idle {i : Instr} {s : State} (h : s.ctl = .idle) (hw : i.wf s.cfg.maxBurst = true) :
    exec i s = drive (planOf i) s.inputs (s.clearRecord.startCommand (encode i) (planOf i).first) := by
  simp [exec_eq_runCommand, runCommand, h, beginCommand, hw]

/-- A command while BUSY (R24). -/
theorem exec_busy (i : Instr) {s : State} (h : s.ctl = .busy) : exec i s = .next s.overrun := by
  simp [exec_eq_runCommand, runCommand, h]

/-- Operands that no command word carries (R86). -/
theorem exec_illformed {i : Instr} {s : State} (h : s.ctl = .idle) (hw : i.wf s.cfg.maxBurst = false) :
    exec i s = .next s.acceptIllegal := by
  simp only [exec_eq_runCommand, runCommand, h, beginCommand, hw]
  exact drive_idle _ _ rfl

/-- The end of a transaction changes the block, never what stands outside it: parameters, device, inputs and
observations stay. -/
structure SameOutside (s t : State) : Prop where
  cfg : t.cfg = s.cfg
  dev : t.dev = s.dev
  lineKnown : t.lineKnown = s.lineKnown
  inputs : t.inputs = s.inputs
  trace : t.trace = s.trace
  hostLog : t.hostLog = s.hostLog

theorem planOf_onOk_outside (i : Instr) (s : State) : SameOutside s ((planOf i).onOk s) := by
  cases i
  case setf => simp only [planOf, planSetf]; cases s.phase <;> constructor <;> rfl
  all_goals constructor <;> rfl

theorem planOf_onErr_outside (i : Instr) (k : ErrKind) (e : Nat) (s : State) :
    SameOutside s ((planOf i).onErr k e s) := by
  cases i <;> constructor <;> rfl

theorem planOf_endTxn_outside (i : Instr) (s : State) : SameOutside s ((planOf i).endTxn s) := by
  unfold Plan.endTxn
  split
  · exact planOf_onOk_outside i s
  · exact planOf_onErr_outside i _ _ s

/-- The controller's move leaves parameters, inputs and observations alone. -/
structure SameObservation (s t : State) : Prop where
  cfg : t.cfg = s.cfg
  inputs : t.inputs = s.inputs
  trace : t.trace = s.trace
  hostLog : t.hostLog = s.hostLog

theorem SameOutside.observation {s t : State} (h : SameOutside s t) : SameObservation s t :=
  ⟨h.cfg, h.inputs, h.trace, h.hostLog⟩

theorem planOf_advance_observation (i : Instr) (rep : Reply) (s : State) :
    SameObservation s ((planOf i).advance rep s) := by
  have key : ∀ s' : State, SameObservation s s' → SameObservation s ((planOf i).endTxn s') := fun s' h =>
    have o := planOf_endTxn_outside i s'
    ⟨o.cfg.trans h.cfg, o.inputs.trans h.inputs, o.trace.trans h.trace, o.hostLog.trans h.hostLog⟩
  unfold Plan.advance
  cases s.step <;> cases rep
  case fAssert.err => exact key _ (by simp only; rw [Plan.unsureWrite_eq]; exact ⟨rfl, rfl, rfl, rfl⟩)
  case fRelease.err => simp only; rw [Plan.unsureWrite_eq]; exact ⟨rfl, rfl, rfl, rfl⟩
  all_goals first
    | exact ⟨rfl, rfl, rfl, rfl⟩
    | exact key _ ⟨rfl, rfl, rfl, rfl⟩

/-- One event leaves the parameters and the events still to come alone. -/
theorem land_inputs {i : Instr} {e : Event} {s t : State} (h : land (planOf i) e s = .next t) :
    t.inputs = s.inputs ∧ t.cfg = s.cfg := by
  rcases land_cases h with ⟨_, _, _, _, rfl⟩ | ⟨_, _, _, rfl⟩ | ⟨_, rfl⟩ | ⟨_, _, _, rfl⟩ | ⟨rep, s', hp, rfl⟩
  · split <;> exact ⟨rfl, rfl⟩
  · exact ⟨rfl, rfl⟩
  · exact ⟨by simp, by simp⟩
  · exact ⟨rfl, rfl⟩
  · have o := planOf_advance_observation i rep s'
    obtain ⟨_, _, e'⟩ := perform_spec hp
    exact ⟨by rw [o.inputs, e'], by rw [o.cfg, e']⟩

end Sys2Proof.Machine
end

