-- ==== Sys2Proof/Laws/Client.lean ====
section
/-! SUPPORT. How client operations and host programs follow on from their commands. -/

namespace Sys2Proof.Machine.Client

@[simp] theorem Out.bind_done {α β : Type} (a : α) (h : Handle) (f : α → Handle → Out β) :
    (Out.done a h).bind f = f a h := rfl

@[simp] theorem Out.bind_error {α β : Type} (k : ErrKind) (n : Word) (h : Handle) (f : α → Handle → Out β) :
    (Out.error k n h).bind f = .error k n h := rfl

@[simp] theorem Out.completed_done (a : Unit) (h : Handle) : (Out.done a h).completed = .done () h := rfl

@[simp] theorem Out.completed_error (k : ErrKind) (n : Word) (h : Handle) :
    (Out.error k n h).completed = .done () h := rfl

theorem Out.bind_assoc {α β γ : Type} (x : Out α) (f : α → Handle → Out β) (g : β → Handle → Out γ) :
    (x.bind f).bind g = x.bind fun a h => (f a h).bind g := by
  cases x <;> rfl

/-! ### The reset waits (R248) -/

/-- A command that made no call wrote nothing. -/
theorem beganWrite_eq_false {i : Instr} {s t : State} (h : t.calls = s.calls) : beganWrite i s t = false := by
  cases i <;> simp [beganWrite, writeTxn, h]

@[simp] theorem issued_acts (p : Params) (i : Instr) (s : State) (h : Handle) :
    (issued p i s h).acts = h.acts ++ [.issued i] := rfl

@[simp] theorem issued_dlpfEnabled (p : Params) (i : Instr) (s : State) (h : Handle) :
    (issued p i s h).dlpfEnabled = h.dlpfEnabled := rfl

/-- A command that wrote nothing leaves the block as it ended, and no new wait. -/
theorem issued_of_no_write {p : Params} {i : Instr} {s : State} {h : Handle} (hw : beganWrite i h.block s = false) :
    issued p i s h = { h with block := s, acts := h.acts ++ [.issued i] } := by
  simp [issued, hw]

/-- An ILLEGAL command leaves the device alone, inside a reset wait too (R86). -/
theorem issue_illformed {p : Params} {i : Instr} {h : Handle} (hc : h.block.ctl = .idle)
    (hw : i.wf h.block.cfg.maxBurst = false) :
    issue p i h = .error .illegal (captureNative h.block.cfg.nativeErrW 0)
      { h with block := h.block.acceptIllegal, acts := h.acts ++ [.issued i] } := by
  have calls : h.block.acceptIllegal.calls = h.block.calls := by
    simp [State.calls, hc, State.acceptIllegal, State.complete, State.clearRecord]
  have he := exec_illformed hc hw
  rw [← issued_of_no_write (p := p) (beganWrite_eq_false (i := i) calls)]
  unfold issue
  rw [he]
  rfl

/-! ### Commands and programs -/

/-- All that the issue of a command can be: the block is still BUSY, a reset abandoned the command, it completed with an
error, or it completed without one (R116, R241, R192). -/
theorem issue_cases {p : Params} {i : Instr} {h : Handle} {s : State} (hs : exec i h.block = .next s) :
    (s.ctl = .busy ∧ issue p i h = .blocked (issued p i s h)) ∨
    (s.ctl = .idle ∧ s.status.done = false ∧ issue p i h = .abandoned (issued p i s h)) ∨
    (s.ctl = .idle ∧ s.status.done = true ∧ s.status.err = true ∧
      issue p i h = .error s.status.errkind s.nativeErr (issued p i s h)) ∨
    (s.ctl = .idle ∧ s.status.done = true ∧ s.status.err = false ∧ issue p i h = .done () (issued p i s h)) := by
  cases hc : s.ctl with
  | busy => exact .inl ⟨rfl, by simp [issue, hs, hc]⟩
  | idle =>
    cases hd : s.status.done with
    | false => exact .inr (.inl ⟨rfl, rfl, by simp [issue, hs, hc, hd]⟩)
    | true =>
      cases he : s.status.err with
      | true => exact .inr (.inr (.inl ⟨rfl, rfl, rfl, by simp [issue, hs, hc, hd, he]⟩))
      | false => exact .inr (.inr (.inr ⟨rfl, rfl, rfl, by simp [issue, hs, hc, hd, he]⟩))

/-- A host program of two parts runs the second where the first has ended (R10). -/
theorem runProgram_append (p : Params) (before after : List AsmLine) (h : Handle) :
    runProgram p (before ++ after) h = (runProgram p before h).bind fun _ h => runProgram p after h := by
  induction before generalizing h with
  | nil => rfl
  | cons line rest ih =>
    cases line with
    | command i => simp only [List.cons_append, runProgram, Out.bind_assoc, ih]
    | waitMs n => simp only [List.cons_append, runProgram, Out.bind_assoc, ih]
    | blank => simp only [List.cons_append, runProgram, ih]

end Sys2Proof.Machine.Client
end

