-- ==== Sys2Proof/Laws/PerInstr.lean ====
section
/-! SUPPORT. Per-command facts about the encoding: the operation code, the register and the reserved fields of a
command's word (R81, R85). -/

namespace Sys2Proof.Laws

open Sys2Proof

/-! ### The fields of an assembled word -/

section
variable (op : BitVec 4) (reg : RegAddr) (off wm1 : BitVec 3) (data : Byte)

theorem opField_assembleWord : opField (assembleWord op reg off wm1 data) = op := by
  ext k hk
  interval_cases k <;>
    simp only [opField, assembleWord, BitVec.getElem_extractLsb', BitVec.getLsbD_append] <;> simp [BitVec.getLsbD_eq_getElem]

theorem rsv0Field_assembleWord : rsv0Field (assembleWord op reg off wm1 data) = 0 := by
  ext k hk
  interval_cases k
  simp only [rsv0Field, assembleWord, BitVec.getElem_extractLsb', BitVec.getLsbD_append]
  simp

theorem regField_assembleWord : regField (assembleWord op reg off wm1 data) = reg := by
  ext k hk
  interval_cases k <;>
    simp only [regField, assembleWord, BitVec.getElem_extractLsb', BitVec.getLsbD_append] <;> simp [BitVec.getLsbD_eq_getElem]

theorem offField_assembleWord : offField (assembleWord op reg off wm1 data) = off := by
  ext k hk
  interval_cases k <;>
    simp only [offField, assembleWord, BitVec.getElem_extractLsb', BitVec.getLsbD_append] <;> simp [BitVec.getLsbD_eq_getElem]

theorem wm1Field_assembleWord : wm1Field (assembleWord op reg off wm1 data) = wm1 := by
  ext k hk
  interval_cases k <;>
    simp only [wm1Field, assembleWord, BitVec.getElem_extractLsb', BitVec.getLsbD_append] <;> simp [BitVec.getLsbD_eq_getElem]

theorem rsv1Field_assembleWord : rsv1Field (assembleWord op reg off wm1 data) = 0 := by
  ext k hk
  interval_cases k <;>
    simp only [rsv1Field, assembleWord, BitVec.getElem_extractLsb', BitVec.getLsbD_append] <;> simp [BitVec.getLsbD_eq_getElem]

theorem dataField_assembleWord : dataField (assembleWord op reg off wm1 data) = data := by
  ext k hk
  interval_cases k <;>
    simp only [dataField, assembleWord, BitVec.getElem_extractLsb', BitVec.getLsbD_append] <;> simp [BitVec.getLsbD_eq_getElem]

end

namespace EncodedFields

/-- The operation code of R85. -/
def opcode : Instr → BitVec 4
  | .write _ _ => 0x1
  | .read _ => 0x2
  | .reads _ _ => 0x3
  | .setf _ _ _ _ => 0x4

/-- A command's word carries its operation code and its register, and its reserved fields are 0. -/
def Statement (i : Instr) : Prop :=
  opField (encode i) = opcode i ∧ regField (encode i) = i.reg ∧ rsv0Field (encode i) = 0 ∧ rsv1Field (encode i) = 0

theorem assembleWord_fields (op : BitVec 4) (reg : RegAddr) (off wm1 : BitVec 3) (data : Byte) :
    opField (assembleWord op reg off wm1 data) = op ∧ regField (assembleWord op reg off wm1 data) = reg ∧
      rsv0Field (assembleWord op reg off wm1 data) = 0 ∧ rsv1Field (assembleWord op reg off wm1 data) = 0 :=
  ⟨opField_assembleWord .., regField_assembleWord .., rsv0Field_assembleWord .., rsv1Field_assembleWord ..⟩

theorem write (reg : RegAddr) (v : Byte) : Statement (.write reg v) := assembleWord_fields ..

theorem read (reg : RegAddr) : Statement (.read reg) := assembleWord_fields ..

theorem reads (reg : RegAddr) (n : Nat) : Statement (.reads reg n) := assembleWord_fields ..

theorem setf (reg : RegAddr) (off width : Nat) (v : Byte) : Statement (.setf reg off width v) := assembleWord_fields ..

end EncodedFields

end Sys2Proof.Laws
end

