-- ==== Sys2Proof/Laws/Step.lean ====
section
/-! SUPPORT. All that one step can do: no event, an event beside the idle block, a command, an event while one is in
flight. -/

namespace Sys2Proof.Machine

/-- All that a step can be, when it gives a next state. -/
theorem step_cases {s t : State} (h : step s = .next t) :
    (s.inputs = [] ∧ t = s) ∨
    (∃ e es, s.inputs = e :: es ∧ s.ctl = .idle ∧
      ((∃ w i, e = .hostWrite 32 0 w ∧ decode s.cfg.maxBurst w = .ok i ∧
          exec i { s with inputs := es } = .next t) ∨
        (∃ w r, e = .hostWrite 32 0 w ∧ decode s.cfg.maxBurst w = .error r ∧
          t = State.acceptIllegal { s with inputs := es }) ∨
        (bystander e { s with inputs := es } = .next t))) ∨
    (∃ e es i, s.inputs = e :: es ∧ s.ctl = .busy ∧ decode s.cfg.maxBurst s.cmd = .ok i ∧
      land (planOf i) e { s with inputs := es } = .next t) := by
  unfold step fetch at h
  cases hi : s.inputs with
  | nil =>
    simp only [hi] at h
    cases h
    exact .inl ⟨rfl, rfl⟩
  | cons e es =>
    simp only [hi] at h
    cases hc : s.ctl with
    | idle =>
      simp only [hc] at h
      refine .inr (.inl ⟨e, es, rfl, rfl, ?_⟩)
      cases e with
      | hostWrite width off w =>
        simp only [fetchIdle] at h
        by_cases hw : isCmdWrite width off = true
        · obtain ⟨rfl, rfl⟩ : width = 32 ∧ off = 0 := by
            simp only [isCmdWrite, definedAccess, Bool.and_eq_true, decide_eq_true_eq] at hw
            exact ⟨hw.1.1, hw.2⟩
          simp only [hw, if_true] at h
          cases hd : decode s.cfg.maxBurst w with
          | ok i =>
            simp only [hd] at h
            exact .inl ⟨w, i, rfl, hd, h⟩
          | error r =>
            simp only [hd] at h
            cases h
            exact .inr (.inl ⟨w, r, rfl, hd, rfl⟩)
        · simp only [hw] at h
          exact .inr (.inr h)
      | hostRead _ _ => exact .inr (.inr h)
      | blockReset => exact .inr (.inr h)
      | device _ _ => exact .inr (.inr h)
      | otherMaster => exact .inr (.inr h)
      | answer _ => exact .inr (.inr h)
      | clock => exact .inr (.inr h)
    | busy =>
      simp only [hc, fetchBusy] at h
      cases hd : decode s.cfg.maxBurst s.cmd with
      | ok i =>
        simp only [hd] at h
        exact .inr (.inr ⟨e, es, i, rfl, rfl, rfl, h⟩)
      | error r =>
        simp only [hd] at h
        cases h

/-- All that an event beside the idle block can do. -/
theorem bystander_cases {e : Event} {s t : State} (h : bystander e s = .next t) :
    (∃ width off w, e = .hostWrite width off w ∧ t = s) ∨
    (∃ width off, e = .hostRead width off ∧ t = s.hostRead width off) ∨
    (e = .blockReset ∧ t = s.blockReset) ∨
    (∃ a v, e = .device a v ∧ t = s.devWrite a v) := by
  cases e with
  | hostWrite width off w => cases h; exact .inl ⟨width, off, w, rfl, rfl⟩
  | hostRead width off => cases h; exact .inr (.inl ⟨width, off, rfl, rfl⟩)
  | blockReset => cases h; exact .inr (.inr (.inl ⟨rfl, rfl⟩))
  | device a v => cases h; exact .inr (.inr (.inr ⟨a, v, rfl, rfl⟩))
  | otherMaster => cases h
  | answer _ => cases h
  | clock => cases h

end Sys2Proof.Machine
end

