-- ==== Sys2Proof/Tests/Slice0.lean ====
section
/-! SUPPORT. Tests. Every expected result is taken from spec/, mostly 95_test_vectors.md (named in the comments). -/

namespace Sys2Proof.Tests

open Sys2Proof Sys2Proof.Machine

/-! ### Helpers -/

def framedCfg : Config := Config.standard
def addrCfg : Config := { Config.standard with transport := .addressed, devAddr := 0x68 }
def addrCfg14 : Config := { Config.standard with transport := .addressed, devAddr := 0x69, maxBurst := 14 }

/-- A block right after reset, with these registers of the reference device and these events to come. -/
def start (c : Config) (dev : Memory) (inputs : List Event) : State :=
  { State.resetWith c 0 (List.replicate c.maxBurst 0) with dev := dev, inputs := inputs }

def nextOf (o : Host.Outcome State Fault Refusal) : Option State :=
  match o with
  | .next s => some s
  | .fault _ => none
  | .refused _ => none

def refusalOf (o : Host.Outcome State Fault Refusal) : Option Refusal :=
  match o with
  | .next _ => none
  | .fault _ => none
  | .refused r => some r

/-- STATUS after one step. -/
def statusAfter (s : State) : Option Word := (nextOf (step s)).map (·.status.toWord)

/-- STATUS and NATIVE_ERR after one step. -/
def recordAfter (s : State) : Option (Word × Word) := (nextOf (step s)).map fun t => (t.status.toWord, t.nativeErr)

/-- The primitives of the trace after one step. -/
def primsAfter (s : State) : Option (List Prim) := (nextOf (step s)).map fun t => t.trace.map (·.prim)

/-- A state `n` steps on. -/
def after (n : Nat) (s : State) : Option State := nextOf (Host.Core.run Sys2Proof.core n s)

def ok : Event := .answer .ok
def cmd (w : Word) : Event := .hostWrite 32 0 w

/-! ### WellFormed refuses ill-formed operands (R86 items 5 and 6; R82: no width 0) -/

theorem test_wf_burst : (Instr.reads 0x10 17).wf 16 = false := by decide
theorem test_wf_width_zero : (Instr.setf 0x10 0 0 0).wf 16 = false := by decide
theorem test_wf_field_too_wide : (Instr.setf 0x6C 6 3 1).wf 16 = false := by decide
theorem test_wf_limits : (Instr.reads 0x10 16).wf 16 && (Instr.setf 0x10 0 8 0).wf 16 = true := by decide

/-! ### Encoding: words written out from R81 and R85, and the words of R92 and 95 §2.1 -/

theorem test_decode_write_bits :
    decode 16 0b0001_0_0011001_000_000_000000_10100101 = .ok (.write 0x19 0xA5) := by decide
theorem test_decode_read_bits :
    decode 16 0b0010_0_1110101_000_000_000000_00000000 = .ok (.read 0x75) := by decide
theorem test_decode_reads_bits :
    decode 16 0b0011_0_0111011_000_000_000000_00001110 = .ok (.reads 0x3B 14) := by decide
theorem test_decode_setf_bits :
    decode 16 0b0100_0_0011010_011_010_000000_00000101 = .ok (.setf 0x1A 3 3 5) := by decide
theorem test_decode_write_top : decode 16 0x17F000FF = .ok (.write 0x7F 0xFF) := by decide
theorem test_decode_reads_max : decode 16 0x31000010 = .ok (.reads 0x10 16) := by decide
theorem test_decode_setf_width8 : decode 16 0x4001C000 = .ok (.setf 0x00 0 8 0) := by decide
theorem test_decode_rsv1 : decode 16 0x10000100 = .error .reservedBits := by decide
theorem test_decode_rsv0 : decode 16 0x1FF000FF = .error .reservedBits := by decide
theorem test_decode_stray_off : decode 16 0x12020000 = .error .strayField := by decide
theorem test_decode_read_data : decode 16 0x21900001 = .error .strayData := by decide
theorem test_decode_burst : decode 16 0x31000011 = .error .burstTooLong := by decide
theorem test_decode_too_wide : decode 16 0x46CC8001 = .error .fieldTooWide := by decide
theorem test_decode_op0 : decode 16 0x00000000 = .error .reservedOp := by decide
theorem test_decode_op7 : decode 16 0x7FFFFFFF = .error .reservedBits := by decide
theorem test_encode_words :
    [encode (.write 0x6B 0x80), encode (.reads 0x3B 6), encode (.setf 0x6B 7 1 1), encode (.setf 0x20 2 3 5),
      encode (.setf 0x68 0 3 7)] = [0x16B00080, 0x33B00006, 0x46BE0001, 0x42048005, 0x46808007] := by decide

/-! ### Operands: merge (95 §2.5) and RDATA lanes (R59) -/

theorem test_merge_field : merge 0xAA 2 3 5 = 0xB6 := by decide
theorem test_merge_width8 : merge 0xFF 0 8 0x5A = 0x5A := by decide
theorem test_merge_excess : merge 0x0F 4 4 0xF3 = 0x3F := by decide
theorem test_merge_top : merge 0x80 7 1 0xFE = 0x00 := by decide
theorem test_rdata_lanes : rdataWord 16 [1, 2, 3, 4] 0 = 0x04030201 := by decide

/-! ### Commands (95 §2.2 to §2.5) -/

theorem test_write_framed :
    primsAfter (start framedCfg [] [cmd 0x11900011, ok, .clock, ok, ok, .clock]) =
      some [.assertCs, .delayUs 1, .send [0x19, 0x11], .releaseCs, .delayUs 1] := by decide

theorem test_write_send_error :
    recordAfter (start framedCfg [] [cmd 0x11900011, ok, .clock, .answer (.err 0x2A), ok, .clock]) =
      some (0x16, 0x2A) := by decide

theorem test_write_assert_error :
    (nextOf (step (start framedCfg [] [cmd 0x11900011, .answer (.err 9)]))).map
      (fun t => (t.status.toWord, t.nativeErr, t.trace.length)) = some (0x36, 9, 1) := by decide

theorem test_read_addressed :
    (nextOf (step (start addrCfg [(0x75, 0x68)] [cmd 0x27500000, ok]))).map
      (fun t => (t.trace, t.rbuf.headD 0, t.status.toWord)) =
      some ([⟨.addrSendRecv 0x68 [0xF5] 1, some (.ok [0x68])⟩], 0x68, 0x2) := by decide

theorem test_read_first_error_wins :
    recordAfter (start framedCfg []
      [cmd 0x27500000, ok, .clock, ok, .answer (.err 5), .answer (.err 6), .clock]) = some (0x26, 5) := by decide

theorem test_reads_framed :
    (nextOf (step (start framedCfg [(0x19, 0x07), (0x1A, 0xEB)] [cmd 0x31900002, ok, .clock, ok, ok, ok, .clock]))).map
      (fun t => (t.register 0x20, t.status.toWord, t.trace.map (·.prim))) =
      some (0x0000EB07, 0x2,
        [.assertCs, .delayUs 1, .send [0x99], .exchange [0, 0], .releaseCs, .delayUs 1]) := by decide

theorem test_reads_wraps_reference :
    (nextOf (step (start addrCfg [(0x00, 3), (0x01, 4), (0x7E, 1), (0x7F, 2)] [cmd 0x37E00004, ok]))).map
      (fun t => t.rbuf.take 4) = some [1, 2, 3, 4] := by decide

theorem test_setf_framed :
    (nextOf (step (start framedCfg [(0x20, 0xAA)]
      [cmd 0x42048005, ok, .clock, ok, ok, ok, .clock, ok, .clock, ok, ok, .clock]))).map
      (fun t => (t.trace.map (·.prim), t.devRead 0x20)) =
      some ([.assertCs, .delayUs 1, .send [0xA0], .exchange [0], .releaseCs, .delayUs 1,
        .assertCs, .delayUs 1, .send [0x20, 0xB6], .releaseCs, .delayUs 1], 0xB6) := by decide

theorem test_setf_read_error_addressed :
    (nextOf (step (start addrCfg [(0x20, 0xAA)] [cmd 0x42048005, .answer (.err 0x11)]))).map
      (fun t => (t.status.toWord, t.nativeErr, t.trace.length, t.devRead 0x20)) =
      some (0x46, 0x11, 1, 0xAA) := by decide

/-! ### Status, window, overrun, reset (95 §2.6, P4) -/

theorem test_status_reset : State.reset.status.toWord = 0 := by decide
theorem test_status_in_flight : statusAfter (start framedCfg [] [cmd 0x33B0000E]) = some 0x1 := by decide
theorem test_status_illegal : statusAfter (start framedCfg [] [cmd 0]) = some 0x56 := by decide
theorem test_overrun :
    statusAfter (start framedCfg [] [cmd 0x11900011, ok, cmd 0x16B00080, .clock, ok, ok, .clock]) = some 0x102 := by
  decide
theorem test_config_words :
    [configWord framedCfg, configWord addrCfg, configWord addrCfg14] = [0x00100000, 0x00106801, 0x000E6901] := by
  decide
theorem test_byte_write_to_cmd_ignored :
    (after 1 (start framedCfg [] [.hostWrite 8 0 0x11900011])).map (fun t => (t.ctl, t.status.toWord)) =
      some (.idle, 0) := by decide
theorem test_reads_too_long_for_14 : statusAfter (start addrCfg14 [] [cmd 0x33B00010]) = some 0x56 := by decide
theorem test_reset_abandons :
    (nextOf (step (start framedCfg [] [cmd 0x11900011, ok, .blockReset, cmd 0]))).map
      (fun t => (t.ctl, t.status.toWord, t.csAsserted, t.trace, t.lineKnown)) =
      some (.idle, 0, false, [⟨.assertCs, some (.ok [])⟩, ⟨.delayUs 1, none⟩], false) := by decide
theorem test_reset_in_assert :
    (nextOf (step (start framedCfg [] [cmd 0x27500000, .blockReset]))).map (fun t => (t.trace, t.lineKnown)) =
      some ([⟨.assertCs, none⟩], false) := by decide
theorem test_wrong_length :
    refusalOf (step (start addrCfg [] [cmd 0x27500000, .answer (.okBytes [1, 2])])) = some .wrongLength := by decide
theorem test_fetch_word_runs :
    (nextOf (step (State.reset.withFetchWord 32 0x11900011))).map (fun t => (t.status.toWord, t.devRead 0x19)) =
      some (0x2, 0x11) := by decide

/-! ### Programs P2 and P6 -/

theorem test_program_p2 :
    (after 3 (start addrCfg [(0x19, 0x07), (0x1A, 0xF8)]
      (cmdEvents addrCfg 0x41A08003 ++ cmdEvents addrCfg 0x41A68005 ++ cmdEvents addrCfg 0x31900002))).map
      (fun t => (t.devRead 0x1A, t.register 0x20, t.trace.map (·.prim))) =
      some (0xEB, 0x0000EB07,
        [.addrSendRecv 0x68 [0x9A] 1, .addrSend 0x68 [0x1A, 0xFB], .addrSendRecv 0x68 [0x9A] 1,
          .addrSend 0x68 [0x1A, 0xEB], .addrSendRecv 0x68 [0x99] 2]) := by decide

/-! ### Client operations (95 §1, §2.7); parameters from 93_implementation_defined.md G1, G4 and G5 -/

open Client in
def params : Params :=
  { rWhoAmI := 0x75, rProductId := 0x0C, rPwr1 := 0x6B, bDeviceReset := 7, bSleep := 6, fClksel := 0
    rSigpath := 0x68, fSigpathResets := 0, rConfig := 0x1A, fDlpf := 0, rSmplrtDiv := 0x19
    rUserCtrl := 0x6A, bI2cIfDis := 4, bFifoBufEn := 6, rIntEnable := 0x38, bInt := [4, 3, 0]
    rIntPinCfg := 0x37, bPin := [7, 6, 5, 4, 3, 2, 1], rFifoEn := 0x23
    bFifo := ⟨#[7, 6, 5, 4, 3, 2, 1, 0], rfl⟩, rFifoCountH := 0x72, rFifoCountL := 0x73
    rAccelConfig := 0x1C, rGyroConfig := 0x1B, rAccelXoutH := 0x3B
    clk := ⟨#[0, 1, 2, 3, 4, 5, 7], rfl⟩, acode := ⟨#[0, 1, 2, 3], rfl⟩, gcode := ⟨#[0, 1, 2, 3], rfl⟩
    ascale := ⟨#[0x46800000, 0x46000000, 0x45800000, 0x45000000], rfl⟩
    gscale := ⟨#[0x43030000, 0x42830000, 0x42033333, 0x41833333], rfl⟩
    tempOffset := 0x42121EB8, tempDiv := 0x43AA0000, knownProductIds := [0x14], expectedIdDefault := 0x68 }

theorem test_scale_constants :
    Binary32.ofInt 16384 = 0x46800000 ∧ Binary32.ofInt 131 = 0x43030000 := by decide

theorem test_params_wf : params.wf := by
  have g2 : params.ascale[0] = 0x46800000 := by decide
  have dps250 : params.gscale[0] = 0x43030000 := by decide
  refine ⟨by decide, by decide, by decide, by decide, by decide, by decide, by decide, by decide, by decide, by decide,
    by decide, by decide, ?_, ?_, by decide⟩
  · rw [g2, test_scale_constants.1]
  · rw [dps250, test_scale_constants.2]

def handle (dev : Memory) (inputs : List Event) : Client.Handle := Client.create params (start addrCfg dev inputs)

def resultOf {α : Type} (o : Client.Out α) : Option α :=
  match o with
  | .done a _ => some a
  | .error _ _ _ => none
  | .refused _ _ => none
  | .blocked _ => none
  | .abandoned _ => none
  | .stopped _ => none
  | .noMeaning _ => none

def handleOf {α : Type} (o : Client.Out α) : Option Client.Handle :=
  match o with
  | .done _ h => some h
  | .error _ _ h => some h
  | .refused _ h => some h
  | .blocked h => some h
  | .abandoned h => some h
  | .stopped _ => none
  | .noMeaning _ => none

theorem test_rate_dividers :
    [(false, 1000), (true, 500), (false, 8000), (false, 1), (true, 1), (false, 31), (true, 3)].map
      (fun x => Client.rateDivider (Client.rateBase x.1) x.2) = [7, 1, 0, 63, 231, 1, 76] := by decide
theorem test_identity_unknown_product :
    resultOf (Client.identityCheck params (handle [(0x0C, 0x68), (0x75, 0x68)] [ok, ok])) = some false := by decide
theorem test_fifo_counter :
    resultOf (Client.getFifoCounter params (handle [(0x72, 1), (0x73, 2)] [ok, ok])) = some 0x0102 := by decide
theorem test_reset_sequence :
    (handleOf (Client.reset params (handle [] [ok, ok, ok, ok]))).map
      (fun h => (h.acts, h.settleOwed, h.block.devRead 0x6B, h.block.devRead 0x68)) =
      some ([.issued (.setf 0x6B 7 1 1), .waited 150, .issued (.setf 0x68 0 3 7), .waited 150], 0, 0x80, 0x07) := by
  decide
theorem test_range_bytes :
    [0, 1, 2, 3].map (Client.rangeByte params) = [0x00, 0x40, 0x80, 0xC0] := by decide
/-- R86, R155: inside a reset wait an ILLEGAL SETF and one whose read phase fails leave their register. -/
theorem test_no_write_inside_wait :
    [(0x6C, 6, 3, ([] : List Event)), (0x6C, 6, 1, [.answer (.err 1)])].map (fun x =>
      (handleOf (Client.issue params (.setf x.1 x.2.1 x.2.2.1 1)
        { handle [(0x6C, 7)] x.2.2.2 with settleOwed := 150 })).map fun h => (h.block.devRead 0x6C, h.settleOwed)) =
      [some (7, 150), some (7, 150)] := by decide
/-- R10, 95 P3 on ADDRESSED: the program goes on after a SETF whose write phase failed. -/
theorem test_program_goes_on_after_error :
    (handleOf (Client.runProgram params [.command (.setf 0x6B 6 1 0), .command (.read 0x6B)]
      (handle [(0x6B, 0x40)] [ok, .answer (.err 0x2A), ok]))).map
        (fun h => (h.block.status.toWord, h.block.nativeErr, h.block.trace.length)) = some (2, 0, 3) := by decide
theorem test_samples :
    [Client.sample 0x01 0x00, Client.sample 0xFF 0xFF, Client.sample 0x80 0x00] = [256, -1, -32768] := by decide

/-- S8. -/
theorem test_read_all :
    resultOf (Client.readAll params .g2 .dps250
      (handle [] [.answer (.okBytes [0x01, 0, 0x02, 0, 0x03, 0, 0, 0x64, 0, 0x10, 0, 0x20, 0, 0x30])])) =
      some ⟨⟨0x3C800000, 0x3D000000, 0x3D400000⟩, 0x42134BE5, ⟨0x3DFA232D, 0x3E7A232D, 0x3EBB9A62⟩⟩ := by decide

theorem test_scaled :
    [Client.scaled 0x46800000 (-32768), Client.scaled 0x46800000 32767, Client.scaled 0x43030000 (-1)] =
      [0xC0000000, 0x3FFFFE00, 0xBBFA232D] := by decide

/-- R190 with D39, by hand from IEEE 754: a divisor of 2^−149 (word 1) overflows to the infinity of the quotient's sign,
which the finite offset leaves; raw 0 gives the offset; a zero divisor gives infinity. -/
theorem test_temperature_special :
    [(1, 100), (1, -100), (1, 0), (0, 1), (0x80000000, 1), (0x7F800000, 5)].map
        (fun x : Word × Int => Client.temperature { params with tempDiv := x.1 } x.2) =
      [0x7F800000, 0xFF800000, 0x42121EB8, 0x7F800000, 0xFF800000, 0x42121EB8] := by decide

/-! ### Assembler (R90 to R92) -/

theorem test_asm_setf :
    Asm.parseLine 16 "SETF 0x1A, 3, 3, 5 ; gain".toList = some (.command (.setf 0x1A 3 3 5)) := by decide
theorem test_asm_refuses : Asm.parseLine 16 "SETF 0x6C, 6, 3, 1".toList = none := by decide
theorem test_asm_setbit : Asm.parseLine 16 "SETBIT 0x6B, 7".toList = some (.command (.setf 0x6B 7 1 1)) := by decide

/-! ### Witnesses: for each statement with hypotheses, states and operands that meet them all together -/

/-- An idle block has the invariant. -/
theorem invariant_start (c : Config) (es : List Event) (hc : c.wf) : Invariant (start c [(0x19, 7)] es) where
  params := hc
  busyFlag := rfl
  notBoth := by simp [start, State.resetWith, Status.reset]
  errFlag := rfl
  kindDone := fun h => absurd rfl h
  kindAllowed := by cases h : c.transport <;> simp [start, State.resetWith, Status.reset, ErrKind.allowed, h]
  nativeWidth := Nat.two_pow_pos _
  nativeZero := fun _ => rfl
  buffer := List.length_replicate
  device := by show Memory.wf [(0x19, 7)]; decide
  idleSelect := fun _ => rfl
  inFlight := fun h => nomatch h

/-- A FRAMED block with `READ 0x75` in flight, at PhyExchange. -/
def reading (es : List Event) : State :=
  { start framedCfg [(0x19, 7)] es with
    ctl := .busy
    cmd := 0x27500000
    step := .fExch
    phase := .read
    csAsserted := true
    status := { Status.reset with busy := true } }

theorem invariant_reading (es : List Event) : Invariant (reading es) where
  params := by show framedCfg.wf; decide
  busyFlag := rfl
  notBoth := by simp [reading, Status.reset]
  errFlag := rfl
  kindDone := fun h => absurd rfl h
  kindAllowed := rfl
  nativeWidth := Nat.two_pow_pos _
  nativeZero := fun _ => rfl
  buffer := List.length_replicate
  device := by show Memory.wf [(0x19, 7)]; decide
  idleSelect := fun h => nomatch h
  inFlight := fun _ => ⟨.read 0x75, by show decode 16 0x27500000 = _; decide, rfl, rfl, rfl, fun _ => rfl,
    (fun _ _ h => nomatch h), fun h => nomatch h⟩

theorem witness_DecodeOfEncodeIsTheCommand :
    (16 ≤ 255 ∧ (Instr.setf 0x7F 7 1 0xFF).wf 16 = true) ∧ (255 ≤ 255 ∧ (Instr.reads 0x7F 255).wf 255 = true) ∧
      (Instr.write 0x7F 0xFF).wf 16 = true ∧ (Instr.read 0).wf 16 = true := by decide

/-- Of `EncodeOfDecodeIsTheWord` and `DecodedOperandsAreTheWordsFields`, for each command. -/
theorem witness_EncodeOfDecodeIsTheWord :
    decode 16 0x17F000FF = .ok (.write 0x7F 0xFF) ∧ decode 16 0x27F00000 = .ok (.read 0x7F) ∧
      decode 16 0x37F00010 = .ok (.reads 0x7F 16) ∧ decode 16 0x47FE00FF = .ok (.setf 0x7F 7 1 0xFF) := by decide

theorem witness_DecodedOperandsAreTheWordsFields : decode 16 0x4001C0FF = .ok (.setf 0 0 8 0xFF) := by decide

/-- Of clause 2, for each of the six kinds of illegal word. -/
theorem witness_IllegalWordsAndTheirEffect :
    ∀ w ∈ [0x50000000, 0x18000000, 0x12020000, 0x21900001, 0x31000011, (0x46CC8001 : Word)],
      (start framedCfg [] [cmd w]).ctl = .idle ∧ (start framedCfg [] [cmd w]).inputs = .hostWrite 32 0 w :: [] ∧
        ∃ r, decode (start framedCfg [] [cmd w]).cfg.maxBurst w = .error r := by
  intro w hw
  refine ⟨rfl, rfl, ?_⟩
  simp only [List.mem_cons, List.not_mem_nil, or_false] at hw
  rcases hw with rfl | rfl | rfl | rfl | rfl | rfl
  exacts [⟨.reservedOp, by decide⟩, ⟨.reservedBits, by decide⟩, ⟨.strayField, by decide⟩, ⟨.strayData, by decide⟩,
    ⟨.burstTooLong, by decide⟩, ⟨.fieldTooWide, by decide⟩]

theorem witness_AssemblerEmitsLegalWords :
    16 ≤ 255 ∧ Asm.parseLine 16 "SETF 0x7F, 0, 8, 0xFF".toList = some (.command (.setf 0x7F 0 8 0xFF)) := by decide

/-- Of `StepRunsTheDecodedCommand`, of `HostWriteToCmd` while IDLE, and of `MicroStepsReachTheSameState`. -/
theorem witness_StepRunsTheDecodedCommand :
    let s := start framedCfg [] (cmd 0x11900011 :: okTxn .framed .write)
    s.ctl = .idle ∧ s.inputs = .hostWrite 32 0 0x11900011 :: okTxn .framed .write ∧
      decode s.cfg.maxBurst 0x11900011 = .ok (.write 0x19 0x11) := by decide

theorem witness_HostWriteToCmd :
    ((start framedCfg [] [cmd 0]).ctl = .idle ∧ decode 16 0 = .error .reservedOp) ∧
      (reading [cmd 0]).ctl = .busy ∧ (reading [cmd 0]).inputs = .hostWrite 32 0 0 :: [] ∧
        ∃ i, decode (reading [cmd 0]).cfg.maxBurst (reading [cmd 0]).cmd = .ok i :=
  ⟨by decide, rfl, rfl, .read 0x75, by decide⟩

theorem witness_AcceptedCommandIsInFlight :
    (start framedCfg [] []).ctl = .idle ∧ (Instr.reads 0x3B 14).wf framedCfg.maxBurst = true ∧
      (start framedCfg [] []).inputs = [] ∧ framedCfg.wf := by decide

/-- Clause 1 over three steps with a lost command word and a device event; clause 2. -/
theorem witness_BlockedPrimitiveLeavesOnlyByReset :
    ((reading [cmd 0, .device 0x75 1]).ctl = .busy ∧
      (∀ e ∈ (reading [cmd 0, .device 0x75 1]).inputs, e.isReturn = false ∧ e.isReset = false) ∧
      ∃ t, Host.Core.run Sys2Proof.core 3 (reading [cmd 0, .device 0x75 1]) = .next t) ∧
    (reading [.blockReset]).inputs = .blockReset :: [] ∧ ∃ i, decode 16 (reading [.blockReset]).cmd = .ok i :=
  ⟨⟨rfl, by decide, _, rfl⟩, rfl, .read 0x75, by decide⟩

theorem next_of_isSome {o : Host.Outcome State Fault Refusal} (h : (nextOf o).isSome = true) : ∃ t, o = .next t := by
  cases o with
  | next t => exact ⟨t, rfl⟩
  | fault _ => cases h
  | refused _ => cases h

/-- Idle and in flight; of `OnlyTheTransportsPrimitives` and `InvariantStatesNeverFault` too. -/
theorem witness_StepKeepsTheInvariant :
    (Invariant (start framedCfg [(0x19, 7)] (cmd 0x42048005 :: okReturns .framed (.setf 0x20 2 3 5))) ∧
      ∃ t, step (start framedCfg [(0x19, 7)] (cmd 0x42048005 :: okReturns .framed (.setf 0x20 2 3 5))) = .next t) ∧
    Invariant (reading [ok]) ∧ ∃ t, step (reading [ok]) = .next t :=
  ⟨⟨invariant_start _ _ (by decide), next_of_isSome (by decide)⟩, invariant_reading _, next_of_isSome (by decide)⟩

theorem witness_InvariantStatesNeverFault : Invariant (reading [ok]) := invariant_reading _

theorem witness_OnlyTheTransportsPrimitives :
    Invariant (start addrCfg [(0x19, 7)] (cmd 0x27500000 :: [ok])) ∧
      ∃ t, step (start addrCfg [(0x19, 7)] (cmd 0x27500000 :: [ok])) = .next t :=
  ⟨invariant_start _ _ (by decide), next_of_isSome (by decide)⟩

theorem witness_ResetHasTheInvariant : addrCfg14.wf ∧ (List.replicate 14 (0xA5 : Byte)).length = addrCfg14.maxBurst := by
  decide

theorem witness_MicroStepsReachTheSameState :
    let s := start addrCfg [] (cmd 0x27500000 :: [ok])
    s.ctl = .idle ∧ s.inputs = .hostWrite 32 0 0x27500000 :: [ok] ∧
      decode s.cfg.maxBurst 0x27500000 = .ok (.read 0x75) ∧
      (nextOf (exec (.read 0x75) { s with inputs := [ok] })).isSome = true := by decide

/-- A host read and a lost command word between the returns. -/
theorem witness_HostAccessesDoNotDisturbACommand :
    let s := start framedCfg [] [ok, .hostRead 32 4, .clock, cmd 0, ok, ok, .clock]
    s.ctl = .idle ∧ (nextOf (exec (.write 0x19 0x11) s)).isSome = true := by decide

theorem witness_WriteCompletesOnFramed :
    let s := start framedCfg [(0x19, 7)] (okTxn .framed .write ++ [ok])
    s.ctl = .idle ∧ s.cfg.transport = .framed ∧ s.dev.wf ∧ s.lineKnown = true ∧
      s.inputs = okTxn .framed .write ++ [ok] := by decide

theorem witness_WriteCompletesOnAddressed :
    let s := start addrCfg [(0x19, 7)] (okTxn .addressed .write ++ [])
    s.ctl = .idle ∧ s.cfg.transport = .addressed ∧ s.csAsserted = false ∧ s.dev.wf ∧
      s.inputs = okTxn .addressed .write ++ [] := by decide

/-- The longest burst, with the bytes of the reference device; and an empty one, with bytes of the oracle. -/
theorem witness_ReadsCompletesOnFramed :
    let s := start framedCfg [(0x7F, 9)] [ok, .clock, ok, ok, ok, .clock]
    let s' := start framedCfg [] [ok, .clock, ok, .answer (.okBytes []), ok, .clock]
    (s.ctl = .idle ∧ s.cfg.transport = .framed ∧ 16 ≤ s.cfg.maxBurst ∧
      brings s 0x7F 16 .ok [9, 0, 0, 0, 0, 0, 0, 0, 0, 0, 0, 0, 0, 0, 0, 0] ∧
      s.inputs = ([.answer .ok, .clock, .answer .ok, .answer .ok, .answer .ok, .clock] : List Event) ++ []) ∧
    s'.ctl = .idle ∧ s'.cfg.transport = .framed ∧ 0 ≤ s'.cfg.maxBurst ∧ brings s' 0x7F 0 (.okBytes []) [] ∧
      s'.inputs = ([.answer .ok, .clock, .answer .ok, .answer (.okBytes []), .answer .ok, .clock] : List Event) ++ [] :=
  ⟨⟨rfl, rfl, by decide, .inr ⟨rfl, rfl, by decide⟩, rfl⟩, rfl, rfl, by decide, .inl ⟨rfl, rfl⟩, rfl⟩

theorem witness_ReadsCompletesOnAddressed :
    let s := start addrCfg [] [.answer (.okBytes [1, 2])]
    s.ctl = .idle ∧ s.cfg.transport = .addressed ∧ s.csAsserted = false ∧ 2 ≤ s.cfg.maxBurst ∧
      brings s 0x19 2 (.okBytes [1, 2]) [1, 2] ∧ s.inputs = .answer (.okBytes [1, 2]) :: [] :=
  ⟨rfl, rfl, rfl, by decide, .inl ⟨rfl, rfl⟩, rfl⟩

/-- On both transports. -/
theorem witness_ReadCompletes :
    let s := start framedCfg [] [ok, .clock, ok, .answer (.okBytes [0x68]), ok, .clock]
    let s' := start addrCfg [(0x75, 0x68)] [ok]
    (s.ctl = .idle ∧ s.csAsserted = false ∧ brings s 0x75 1 (.okBytes [0x68]) [0x68] ∧ s.cfg.transport = .framed ∧
      s.inputs =
        ([.answer .ok, .clock, .answer .ok, .answer (.okBytes [0x68]), .answer .ok, .clock] : List Event) ++ []) ∧
    s'.ctl = .idle ∧ s'.csAsserted = false ∧ brings s' 0x75 1 .ok [0x68] ∧ s'.cfg.transport = .addressed ∧
      s'.inputs = .answer .ok :: [] :=
  ⟨⟨rfl, rfl, .inl ⟨rfl, rfl⟩, rfl, rfl⟩, rfl, rfl, .inr ⟨rfl, rfl, by decide⟩, rfl, rfl⟩

theorem witness_SetfCompletesOnFramed :
    let s := start framedCfg [(0x20, 0xAA)] ([ok, .clock, ok, ok, ok, .clock] ++ okTxn .framed .write ++ [])
    s.ctl = .idle ∧ s.cfg.transport = .framed ∧ s.dev.wf ∧ 1 ≤ 8 ∧ 0 + 8 ≤ 8 ∧ brings s 0x20 1 .ok [0xAA] ∧
      s.inputs =
        ([.answer .ok, .clock, .answer .ok, .answer .ok, .answer .ok, .clock] : List Event) ++
          okTxn .framed .write ++ [] :=
  ⟨rfl, rfl, by decide, by decide, by decide, .inr ⟨rfl, rfl, by decide⟩, rfl⟩

theorem witness_SetfCompletesOnAddressed :
    let s := start addrCfg [(0x20, 0xAA)] [ok, ok]
    s.ctl = .idle ∧ s.cfg.transport = .addressed ∧ s.csAsserted = false ∧ s.dev.wf ∧ 1 ≤ 1 ∧ 7 + 1 ≤ 8 ∧
      brings s 0x20 1 .ok [0xAA] ∧ s.inputs = .answer .ok :: .answer .ok :: [] :=
  ⟨rfl, rfl, rfl, by decide, by decide, by decide, .inr ⟨rfl, rfl, by decide⟩, rfl⟩

/-- For every command. -/
theorem witness_FailedAssertEndsTheCommand :
    let s := start framedCfg [(0x20, 0xAA)] [.answer (.err 9)]
    s.ctl = .idle ∧ s.cfg.transport = .framed ∧ s.csAsserted = false ∧ s.cfg.eNative.has 9 = true ∧ s.dev.wf ∧
      (∀ i ∈ [Instr.write 0x19 0x11, .read 0x75, .reads 0x3B 14, .setf 0x20 2 3 5], i.wf s.cfg.maxBurst = true) ∧
      s.inputs = .answer (.err 9) :: [] := by decide

/-- Clause 1 with a release that succeeds, and clause 2 with one that fails. -/
theorem witness_FailedBodyStillReleases :
    let s := start framedCfg [] [ok, .clock, .answer (.err 5), ok, .clock]
    let s' := start framedCfg [] [ok, .clock, ok, .answer (.err 5), .answer (.err 6), .clock]
    (s.ctl = .idle ∧ s.cfg.transport = .framed ∧ (Instr.write 0x19 0x11).wf s.cfg.maxBurst = true ∧
      s.cfg.eNative.has 5 = true ∧ replies s.cfg .ok (.ok []) ∧
      s.inputs = ([.answer .ok, .clock, .answer (.err 5), .answer .ok, .clock] : List Event) ++ []) ∧
    s'.ctl = .idle ∧ s'.cfg.transport = .framed ∧ (Instr.setf 0x20 2 3 5).wf s'.cfg.maxBurst = true ∧
      hasPhase (.setf 0x20 2 3 5) .read = true ∧ s'.cfg.eNative.has 5 = true ∧ replies s'.cfg (.err 6) (.err 6) ∧
      s'.inputs =
        ([.answer .ok, .clock, .answer .ok, .answer (.err 5), .answer (.err 6), .clock] : List Event) ++ [] :=
  ⟨⟨rfl, rfl, rfl, rfl, .inl ⟨rfl, rfl⟩, rfl⟩, rfl, rfl, rfl, rfl, rfl, .inr ⟨6, rfl, rfl, rfl⟩, rfl⟩

/-- Each clause. -/
theorem witness_FailedReleaseReportsChipSelect :
    let s := start framedCfg [] [ok, .clock, ok, .answer (.err 3), .clock]
    let s' := start framedCfg [] [ok, .clock, ok, ok, .answer (.err 3), .clock]
    (s.ctl = .idle ∧ s.cfg.transport = .framed ∧ s.cfg.eNative.has 3 = true ∧
      s.inputs = ([.answer .ok, .clock, .answer .ok, .answer (.err 3), .clock] : List Event) ++ []) ∧
    s'.ctl = .idle ∧ s'.cfg.transport = .framed ∧ s'.cfg.eNative.has 3 = true ∧
      (Instr.reads 0x3B 2).wf s'.cfg.maxBurst = true ∧ hasPhase (.reads 0x3B 2) .read = true ∧
      brings s' 0x3B (planOf (.reads 0x3B 2)).count .ok [0, 0] ∧
      s'.inputs =
        ([.answer .ok, .clock, .answer .ok, .answer .ok, .answer (.err 3), .clock] : List Event) ++ [] :=
  ⟨⟨rfl, rfl, rfl, rfl⟩, rfl, rfl, rfl, rfl, rfl, .inr ⟨rfl, rfl, by decide⟩, rfl⟩

/-- Each clause. -/
theorem witness_FailedAddressedTransferReportsBus :
    let s := start addrCfg [] [.answer (.err 0x11)]
    let s' := start addrCfg [(0x20, 0xAA)] [ok, .answer (.err 0x11)]
    (s.ctl = .idle ∧ s.cfg.transport = .addressed ∧ s.csAsserted = false ∧ s.cfg.eNative.has 0x11 = true ∧
      (Instr.write 0x19 0x11).wf s.cfg.maxBurst = true ∧ s.inputs = .answer (.err 0x11) :: []) ∧
    s'.ctl = .idle ∧ s'.cfg.transport = .addressed ∧ s'.csAsserted = false ∧ s'.cfg.eNative.has 0x11 = true ∧
      1 ≤ 3 ∧ 2 + 3 ≤ 8 ∧ brings s' 0x20 1 .ok [0xAA] ∧ s'.inputs = .answer .ok :: .answer (.err 0x11) :: [] :=
  ⟨⟨rfl, rfl, rfl, rfl, rfl, rfl⟩, rfl, rfl, rfl, rfl, by decide, by decide, .inr ⟨rfl, rfl, by decide⟩, rfl⟩

def resultKind (x : Option (Pseudocode.TxnResult × State)) : Option (Option ErrKind) :=
  x.map fun y =>
    match y.1 with
    | .ok _ => none
    | .err k _ => some k

theorem witness_SetfReadErrorMakesNoWrite :
    let s := start framedCfg [(0x20, 0xAA)] [ok, .clock, ok, .answer (.err 7), ok, .clock]
    s.ctl = .idle ∧ 1 ≤ 3 ∧ 2 + 3 ≤ 8 ∧
      resultKind (Pseudocode.doRead 0x20 1 (accepted (.setf 0x20 2 3 5) s)) = some (some .exchange) := by decide

theorem witness_SequencerDoesWhatTheProceduresDo :
    let s := start addrCfg [(0x20, 0xAA)] [ok, ok]
    s.ctl = .idle ∧ (Instr.setf 0x20 2 3 5).wf s.cfg.maxBurst = true ∧
      (Pseudocode.accept (.setf 0x20 2 3 5) s).isSome = true := by decide

theorem witness_CompletedRunsAreThoseOfTheProcedures :
    let s := start addrCfg [(0x20, 0xAA)] [ok, .answer (.err 1)]
    s.ctl = .idle ∧ (Instr.setf 0x20 2 3 5).wf s.cfg.maxBurst = true ∧ (∀ e ∈ s.inputs, e.isReturn = true) ∧
      (nextOf (exec (.setf 0x20 2 3 5) s)).map (·.ctl) = some .idle := by decide

theorem witness_OneTransactionPerCommand :
    let s := start framedCfg [] [ok, .clock, ok, .hostRead 32 4, ok, ok, .clock]
    s.ctl = .idle ∧ (Instr.reads 0x3B 14).wf s.cfg.maxBurst = true ∧ hasPhase (.reads 0x3B 14) .write = false ∧
      (∀ e ∈ s.inputs, e.isReset = false) ∧ (nextOf (exec (.reads 0x3B 14) s)).map (·.ctl) = some .idle := by decide

theorem witness_SetfReadsOnceThenWritesOnce :
    let s := start framedCfg [(0x20, 0xAA)] (okReturns .framed (.setf 0x20 2 3 5))
    s.ctl = .idle ∧ 1 ≤ 3 ∧ 2 + 3 ≤ 8 ∧ (∀ e ∈ s.inputs, e.isReturn = true) ∧
      (nextOf (exec (.setf 0x20 2 3 5) s)).map (·.ctl) = some .idle := by decide

/-- A read phase that fails at PhyExchange, and a write phase that fails at PhySend. -/
theorem witness_SetfReadsOnceThenWritesOnce_failed :
    ∀ l ∈ [([ok, .clock, ok, .answer (.err 5), ok, .clock] : List Event),
        okTxn .framed .read ++ [ok, .clock, .answer (.err 0x2A), ok, .clock]],
      let s := start framedCfg [(0x6B, 0x40)] l
      s.ctl = .idle ∧ 1 ≤ 1 ∧ 6 + 1 ≤ 8 ∧ (∀ e ∈ s.inputs, e.isReturn = true) ∧
        (nextOf (exec (.setf 0x6B 6 1 0) s)).map (·.ctl) = some .idle := by decide

theorem witness_IdleBlockPerformsNoPrimitive :
    let s := start framedCfg [] [.hostRead 32 4]
    s.ctl = .idle ∧ (∀ w es i, s.inputs = .hostWrite 32 0 w :: es → decode s.cfg.maxBurst w ≠ .ok i) ∧
      ∃ t, step s = .next t :=
  ⟨rfl, fun _ _ _ h => by simp [start] at h, _, rfl⟩

theorem witness_ReadIsReadsOfOne : 1 ≤ (start framedCfg [] [ok, .answer (.err 2)]).cfg.maxBurst := by decide

theorem witness_MergeKeepsBitsOutsideTheField :
    (1 ≤ 1 ∧ 7 + 1 ≤ 8 ∧ 6 < 8 ∧ 6 < 7) ∧ (1 ≤ 7 ∧ 0 + 7 ≤ 8 ∧ 7 < 8 ∧ 0 + 7 ≤ 7) := by decide

/-- On both transports. -/
theorem witness_RoundTripOnTheReferenceDevice :
    ∀ c ∈ [framedCfg, addrCfg],
      let l := cmdEvents c (encode (.write 0x19 0xA5)) ++ cmdEvents c (encode (.read 0x19)) ++ []
      let s := start c [(0x19, 7)] l
      s.ctl = .idle ∧ s.cfg.wf ∧ s.dev.wf ∧ s.lineKnown = true ∧ s.inputs = l := by decide

theorem witness_SetfTwiceIsSetfOnce :
    let i := Instr.setf 0x20 0 8 0x5A
    let l := cmdEvents framedCfg (encode i) ++ cmdEvents framedCfg (encode i) ++ []
    let s := start framedCfg [(0x20, 0xAA)] l
    s.ctl = .idle ∧ s.cfg.wf ∧ s.dev.wf ∧ s.lineKnown = true ∧ 1 ≤ 8 ∧ 0 + 8 ≤ 8 ∧ s.inputs = l := by decide

/-- Each clause. -/
theorem witness_SetfWritesFromTheStaleByte :
    ∀ c ∈ [framedCfg, addrCfg],
      let pre := okTxn c.transport .read ++ [.device 0x20 0x55]
      let s := start c [(0x20, 0xAA)] (pre ++ okTxn c.transport .write ++ [])
      s.ctl = .idle ∧ s.csAsserted = false ∧ s.dev.wf ∧ s.lineKnown = true ∧ 1 ≤ 3 ∧ 2 + 3 ≤ 8 ∧
        s.inputs = pre ++ okTxn s.cfg.transport .write ++ [] := by decide

/-- Each command ends in an error. -/
theorem witness_ReadBufferAndLatchFrame :
    let s := start addrCfg [(0x19, 7)] [cmd 0, .answer (.err 1)]
    s.dev.wf ∧ (∀ e ∈ s.inputs, e.isReset = false ∧ e.isDevice = false) ∧
      ∀ i ∈ [Instr.write 0x19 0x11, .read 0x75, .reads 0x3B 14, .setf 0x20 2 3 5],
        (nextOf (exec i s)).isSome = true := by decide

theorem witness_DeviceRegisterFrame :
    let s := start framedCfg [(0x19, 7)] [ok, .clock, ok, .blockReset]
    s.dev.wf ∧ (∀ e ∈ s.inputs, e.isDevice = false) ∧ (nextOf (exec (.write 0x20 0x11) s)).isSome = true := by decide

/-- Idle and in flight. -/
theorem witness_StatusWordFields :
    (Invariant (start framedCfg [(0x19, 7)] [.hostWrite 32 4 1]) ∧
      (start framedCfg [(0x19, 7)] [.hostWrite 32 4 1]).inputs = .hostWrite 32 0x04 1 :: []) ∧
    Invariant (reading [.hostWrite 32 4 1]) :=
  ⟨⟨invariant_start _ _ (by decide), rfl⟩, invariant_reading _⟩

theorem witness_ConfigIsConstant :
    framedCfg.wf ∧ addrCfg14.wf ∧ Config.wf { addrCfg with maxBurst := 32, devAddr := 0x7F } ∧
      ∃ t, step (reading [.blockReset]) = .next t :=
  ⟨by decide, by decide, by decide, _, rfl⟩

/-- A narrow write while a command is in flight, and a misaligned read. -/
theorem witness_UndefinedHostAccessesDoNothing :
    ((∃ i, decode framedCfg.maxBurst (reading [.hostWrite 8 0 0]).cmd = .ok i) ∧
      ¬(8 = 32 ∧ (0 : BitVec 6).toNat % 4 = 0) ∧ (reading [.hostWrite 8 0 0]).inputs = .hostWrite 8 0 0 :: []) ∧
    ¬(32 = 32 ∧ (0x3F : BitVec 6).toNat % 4 = 0) ∧
      (start framedCfg [] [.hostRead 32 0x3F]).inputs = .hostRead 32 0x3F :: [] ∧
      (start framedCfg [] [.hostRead 32 0x3F]).ctl ≠ .busy :=
  ⟨⟨⟨.read 0x75, by decide⟩, by decide, rfl⟩, by decide, rfl, by decide⟩

theorem witness_WindowRegisters :
    ((start addrCfg14 [] []).ctl = .idle ∧ (0x10 ≤ (0x1C : BitVec 6).toNat ∧ (0x1C : BitVec 6).toNat < 0x20) ∧
      (13 < 14 ∧ 31 < 32 ∧ ¬31 < addrCfg14.maxBurst)) ∧
    ((∃ i, decode framedCfg.maxBurst (reading [.hostWrite 32 0x3C 1]).cmd = .ok i) ∧
      (0x3C : BitVec 6).toNat % 4 = 0 ∧ (0x3C : BitVec 6) ≠ 0 ∧
      (reading [.hostWrite 32 0x3C 1]).inputs = .hostWrite 32 0x3C 1 :: []) ∧
    (start framedCfg [] [.hostRead 32 0]).ctl ≠ .busy ∧ (0 : BitVec 6).toNat % 4 = 0 ∧
      (start framedCfg [] [.hostRead 32 0]).inputs = .hostRead 32 0 :: [] :=
  ⟨by decide, ⟨⟨.read 0x75, by decide⟩, by decide, by decide, rfl⟩, by decide, by decide, rfl⟩

/-- In flight and idle. -/
theorem witness_BlockResetLeavesResetState :
    ((reading [.blockReset]).inputs = .blockReset :: [] ∧
      ∃ i, decode framedCfg.maxBurst (reading [.blockReset]).cmd = .ok i) ∧
    (start framedCfg [] [.blockReset]).inputs = .blockReset :: [] ∧ (start framedCfg [] [.blockReset]).ctl = .idle :=
  ⟨⟨rfl, .read 0x75, by decide⟩, rfl, rfl⟩

theorem witness_ResetAbandonsTheCommand :
    let s := start framedCfg [] []
    s.cfg.wf ∧ s.ctl = .idle ∧
      (nextOf (exec (.write 0x19 0x11) { s with inputs := [ok, .clock] })).map (·.ctl) = some .busy := by decide

/-- A FRAMED block with `READ 0x75` in flight, in the first settle delay. -/
def settling (es : List Event) : State := { reading es with step := .fSettle1 }

/-- A FRAMED block whose transport has the native errors 1 and 2 only, with `READ 0x75` at PhyExchange. -/
def readingTwoErrors (es : List Event) : State :=
  { reading es with cfg := { framedCfg with eNative := .only [1, 2] } }

/-- Clause 1, READS and SETF. -/
theorem witness_InputsOutsideTheInterfaceAreRefused :
    let s := start addrCfg [] [.answer (.okBytes [1])]
    let s' := start framedCfg [] [ok, .clock, ok, .answer (.okBytes [])]
    (s.ctl = .idle ∧ (Instr.reads 0x3B 0).wf s.cfg.maxBurst = true ∧ hasPhase (.reads 0x3B 0) .read = true ∧
      [(1 : Byte)].length ≠ (planOf (.reads 0x3B 0)).count ∧ s.cfg.transport = .addressed ∧
      s.inputs = .answer (.okBytes [1]) :: []) ∧
    s'.ctl = .idle ∧ (Instr.setf 0x20 2 3 5).wf s'.cfg.maxBurst = true ∧ hasPhase (.setf 0x20 2 3 5) .read = true ∧
      ([] : List Byte).length ≠ (planOf (.setf 0x20 2 3 5)).count ∧ s'.cfg.transport = .framed ∧
      s'.inputs = ([.answer .ok, .clock, .answer .ok, .answer (.okBytes [])] : List Event) ++ [] := by decide

/-- Clauses 2 to 4. -/
theorem witness_InputsOutsideTheInterface_inFlight :
    ((reading []).ctl = .busy ∧ decode framedCfg.maxBurst (reading []).cmd = .ok (.read 0x75) ∧
      ((planOf (.read 0x75)).prim (reading [])).isDelay = false ∧
      [(1 : Byte), 2].length ≠ ((planOf (.read 0x75)).prim (reading [.answer (.okBytes [1, 2])])).expects ∧
      (readingTwoErrors [.answer (.err 3)]).cfg.eNative.has 3 = false) ∧
    ((settling [ok]).ctl = .busy ∧ decode framedCfg.maxBurst (settling [ok]).cmd = .ok (.read 0x75) ∧
      ((planOf (.read 0x75)).prim (settling [ok])).isDelay = true ∧ (settling [ok]).inputs = .answer .ok :: []) ∧
    ((start framedCfg [] [.clock]).ctl = .idle ∧ (start framedCfg [] [.clock]).inputs = .clock :: []) ∧
    Invariant (start framedCfg [(0x19, 7)] [.otherMaster]) ∧ Invariant (reading [.otherMaster]) :=
  ⟨by decide, by decide, by decide, invariant_start _ _ (by decide), invariant_reading _⟩

/-- The three clauses at their boundaries: rate 0, 8001, and 8000, the base without the filter. -/
theorem witness_SampleRateDivider :
    let h := handle [] (okTxn .addressed .write ++ [])
    Client.rateBase h.dlpfEnabled < 8001 ∧ 8000 ≠ 0 ∧ 8000 ≤ Client.rateBase h.dlpfEnabled ∧ h.block.ctl = .idle ∧
      h.block.dev.wf ∧ h.block.lineKnown = true ∧ h.settleOwed = 0 ∧
      h.block.inputs = okTxn h.block.cfg.transport .write ++ [] := by decide

theorem witness_FilterSettingUpdatesOnlyOnSuccess :
    7 < 8 ∧ resultOf (Client.setDlpf params 7 (handle [] [ok, ok])) = some () ∧
      (∃ k n h', Client.setDlpf params 6 (handle [] [.answer (.err 1)]) = .error k n h') :=
  ⟨by decide, by decide, _, _, _, rfl⟩

theorem witness_IdentityCheckReadsBoth :
    let h := handle [] (okRead .addressed 0x68 ++ okRead .addressed 0x14 ++ [])
    h.block.ctl = .idle ∧ h.block.cfg.wf ∧
      h.block.inputs = okRead h.block.cfg.transport 0x68 ++ okRead h.block.cfg.transport 0x14 ++ [] := by decide

theorem witness_ClientOperationsStopAtAnError :
    ∀ i ∈ [Instr.read params.rWhoAmI, .read params.rFifoCountH, .read params.rUserCtrl,
        .setf params.rPwr1 params.bDeviceReset 1 1],
      ∃ k n h', Client.issue params i (handle [] [.answer (.err 1)]) = .error k n h' := by
  intro i hi
  simp only [List.mem_cons, List.not_mem_nil, or_false] at hi
  rcases hi with rfl | rfl | rfl | rfl <;> exact ⟨_, _, _, rfl⟩

/-- The errors of the second commands, and of a program's third line, after which it goes on. -/
theorem witness_ClientOperationsStopAtAnError_second :
    let h := handle [] [ok, ok, .answer (.err 1), ok]
    let w := handle [] [ok, ok, ok]
    (∃ h₁ k n h', Client.issue params (.setf params.rPwr1 params.bDeviceReset 1 1) h = .done () h₁ ∧
      Client.issue params (.setf params.rSigpath params.fSigpathResets 3 7)
        { h₁ with settleOwed := h₁.settleOwed - 150, acts := h₁.acts ++ [.waited 150] } = .error k n h') ∧
    (∃ h₁ k n h', Client.runProgram params [.command (.read 0x75), .waitMs 1] (handle [] [ok, .answer (.err 1)]) =
      .done () h₁ ∧ Client.issue params (.write 0x19 1) h₁ = .error k n h') ∧
    ∀ i ∈ [Instr.read params.rWhoAmI, .read params.rFifoCountH, .read params.rUserCtrl],
      ∃ h₁, Client.issue params i w = .done () h₁ := by
  refine ⟨⟨_, _, _, _, rfl, rfl⟩, ⟨_, _, _, _, rfl, rfl⟩, fun i hi => ?_⟩
  simp only [List.mem_cons, List.not_mem_nil, or_false] at hi
  rcases hi with rfl | rfl | rfl <;> exact ⟨_, rfl⟩

theorem witness_FifoCounterIsBigEndian :
    let h := handle [] (okRead .addressed 1 ++ okRead .addressed 2 ++ [])
    h.block.ctl = .idle ∧ h.block.cfg.wf ∧
      h.block.inputs = okRead h.block.cfg.transport 1 ++ okRead h.block.cfg.transport 2 ++ [] := by decide

theorem witness_DeviceResetSequence :
    let h := handle [] [ok, ok, ok, ok]
    params.wf ∧ h.block.ctl = .idle ∧ h.block.cfg.wf ∧ h.block.inputs =
      okReturns h.block.cfg.transport (.setf params.rPwr1 params.bDeviceReset 1 1) ++
        okReturns h.block.cfg.transport (.setf params.rSigpath params.fSigpathResets 3 7) ++ [] :=
  ⟨test_params_wf, rfl, by decide, rfl⟩

theorem witness_FifoBufferEnableTraceIsThatOfSetbit :
    let h := handle [] (okRead .addressed 0x0F ++ okTxn .addressed .write ++ [])
    params.wf ∧ h.block.ctl = .idle ∧ h.block.cfg.wf ∧
      h.block.inputs = okRead h.block.cfg.transport 0x0F ++ okTxn h.block.cfg.transport .write ++ [] :=
  ⟨test_params_wf, rfl, by decide, rfl⟩

theorem witness_RoundingIsWithinHalfAUnit :
    0 < 3 ∧ Binary32.isFinite (Binary32.round false (2 ^ 149) 3) = true := by decide

end Sys2Proof.Tests
end

section
/-! PROOFS. The decoder's answers, said once, and the word of a decoded command (R81, R84, R85). -/

namespace Sys2Proof

/-- A word whose reserved fields are 0 is assembled from its other fields (R81). -/
theorem assembleWord_fields_eq {w : Word} (h0 : rsv0Field w = 0) (h1 : rsv1Field w = 0) :
    assembleWord (opField w) (regField w) (offField w) (wm1Field w) (dataField w) = w := by
  have hw : (opField w ++ rsv0Field w ++ regField w ++ offField w ++ wm1Field w ++ rsv1Field w ++
      dataField w : BitVec 32) = w := by
    simp only [opField, rsv0Field, regField, offField, wm1Field, rsv1Field, dataField]
    iterate 6 rw [BitVec.extractLsb'_append_extractLsb'_eq_extractLsb' (by rfl)]
    exact BitVec.extractLsb'_eq_self
  rwa [h0, h1] at hw

/-- All that a legal word can be: one of the four rows of R85, with the conditions of R86. -/
theorem decode_ok_cases {maxBurst : Nat} {w : Word} {i : Instr} (h : decode maxBurst w = .ok i) :
    rsv0Field w = 0 ∧ rsv1Field w = 0 ∧
      ((opField w = 0x1 ∧ offField w = 0 ∧ wm1Field w = 0 ∧ i = .write (regField w) (dataField w)) ∨
        (opField w = 0x2 ∧ offField w = 0 ∧ wm1Field w = 0 ∧ dataField w = 0 ∧ i = .read (regField w)) ∨
        (opField w = 0x3 ∧ offField w = 0 ∧ wm1Field w = 0 ∧ (dataField w).toNat ≤ maxBurst ∧
          i = .reads (regField w) (dataField w).toNat) ∨
        (opField w = 0x4 ∧ (offField w).toNat + (wm1Field w).toNat + 1 ≤ 8 ∧
          i = .setf (regField w) (offField w).toNat ((wm1Field w).toNat + 1) (dataField w))) := by
  unfold decode at h
  split_ifs at h <;> cases h
  -- the four branches that answer a command, each with its tests in the context
  all_goals simp_all

/-- A legal word is the word of the command it decodes to. -/
theorem encode_of_decode {maxBurst : Nat} {w : Word} {i : Instr} (h : decode maxBurst w = .ok i) :
    encode i = w := by
  obtain ⟨h0, h1, row⟩ := decode_ok_cases h
  have hw := assembleWord_fields_eq h0 h1
  obtain ⟨op, off, wm1, rfl⟩ | ⟨op, off, wm1, data, rfl⟩ | ⟨op, off, wm1, -, rfl⟩ | ⟨op, -, rfl⟩ := row
  · rwa [op, off, wm1] at hw
  · rwa [op, off, wm1, data] at hw
  · rw [op, off, wm1] at hw
    simpa [encode] using hw
  · rw [op] at hw
    simpa [encode] using hw

end Sys2Proof
end

section
/-! PROOFS. One event at a time: what a micro step does with an accepted command, and what the command in flight keeps
(R7, log entry 7). -/

namespace Sys2Proof.Machine

/-! ### The command word stays -/

theorem planOf_endTxn_cmd (i : Instr) (s : State) : ((planOf i).endTxn s).cmd = s.cmd := by
  unfold Plan.endTxn
  split
  · cases i with
    | setf => simp only [planOf, planSetf]; split <;> rfl
    | _ => rfl
  · cases i <;> rfl

@[simp] theorem Plan.unsureWrite_cmd (p : Plan) (s : State) : (p.unsureWrite s).cmd = s.cmd := by
  rw [Plan.unsureWrite_eq]

theorem planOf_advance_cmd (i : Instr) (rep : Reply) (s : State) : ((planOf i).advance rep s).cmd = s.cmd := by
  unfold Plan.advance
  cases s.step <;> cases rep <;> simp [planOf_endTxn_cmd]

/-- After one event a command in flight is over, or its word is still in `cmd`. -/
theorem land_idle_or_cmd {i : Instr} {e : Event} {s t : State} (h : land (planOf i) e s = .next t) :
    t.ctl = .idle ∨ t.cmd = s.cmd := by
  rcases land_cases h with ⟨_, _, _, _, rfl⟩ | ⟨_, _, _, rfl⟩ | ⟨_, rfl⟩ | ⟨_, _, _, rfl⟩ | ⟨rep, s', hp, rfl⟩
  · exact .inr (by split <;> rfl)
  · exact .inr rfl
  · exact .inl (State.blockReset_ctl _)
  · exact .inr rfl
  · obtain ⟨_, _, hs'⟩ := perform_spec hp
    exact .inr (by rw [planOf_advance_cmd, hs'])

/-! ### Micro steps -/

/-- The block is IDLE, or `i` is the command in flight. -/
def InFlightIs (i : Instr) (s : State) : Prop := s.ctl = .busy → decode s.cfg.maxBurst s.cmd = .ok i

theorem inFlightIs_beginCommand {i : Instr} {s : State} (p : Plan)
    (h : decode s.cfg.maxBurst (encode i) = .ok i) : InFlightIs i (beginCommand i p s) := by
  unfold beginCommand
  split
  · exact fun _ => h
  · exact nofun

theorem inFlightIs_land {i : Instr} {e : Event} {s t : State} (h : land (planOf i) e s = .next t)
    (hd : decode s.cfg.maxBurst s.cmd = .ok i) : InFlightIs i t := by
  intro hb
  obtain hc | hc := land_idle_or_cmd h
  · simp [hb] at hc
  · rwa [hc, (land_inputs h).2]

@[simp] theorem beginCommand_inputs (i : Instr) (p : Plan) (s : State) : (beginCommand i p s).inputs = s.inputs := by
  unfold beginCommand
  split <;> rfl

/-- A micro step of the idle block accepts a legal command word. -/
theorem microStep_accepts {s : State} {w : Word} {es : List Event} {i : Instr} (hc : s.ctl = .idle)
    (hi : s.inputs = .hostWrite 32 0 w :: es) (hd : decode s.cfg.maxBurst w = .ok i) :
    microStep s = .next (beginCommand i (planOf i) { s with inputs := es }) := by
  have hw : isCmdWrite 32 0 = true := rfl
  simp only [microStep, fetch, hi, hc, fetchIdle, hw, if_true, hd]

/-- A micro step with a command in flight is one event. -/
theorem microStep_lands {s : State} {e : Event} {es : List Event} {i : Instr} (hc : s.ctl = .busy)
    (hi : s.inputs = e :: es) (hd : decode s.cfg.maxBurst s.cmd = .ok i) :
    microStep s = land (planOf i) e { s with inputs := es } := by
  simp only [microStep, fetch, hi, hc, fetchBusy, hd]

theorem microRun_succ {s s' : State} (k : Nat) (h : microStep s = .next s') :
    microRun (k + 1) s = microRun k s' := by
  simp only [microRun, h]

/-- A run of the command in flight is some number of micro steps. -/
theorem microRun_of_drive {i : Instr} {l : List Event} {s t : State} (hl : s.inputs = l) (hs : InFlightIs i s)
    (h : drive (planOf i) l s = .next t) : ∃ k, microRun k s = .next t := by
  induction l generalizing s with
  | nil => exact ⟨0, h⟩
  | cons e es ih =>
    cases hc : s.ctl with
    | idle =>
      rw [drive_idle _ _ hc] at h
      exact ⟨0, h⟩
    | busy =>
      rw [drive_busy _ _ _ hc] at h
      split at h
      · next s' hland =>
        obtain ⟨k, hk⟩ := ih (land_inputs hland).1 (inFlightIs_land hland (hs hc)) h
        refine ⟨k + 1, ?_⟩
        rw [microRun_succ k ((microStep_lands hc hl (hs hc)).trans hland), hk]
      · cases h
      · cases h

/-- Settles O15: the first micro step accepts the command, and the run that `exec` makes of it is one micro step for
each event. -/
theorem microStepsReachTheSameState : Obligations.MicroStepsReachTheSameState := by
  unfold Obligations.MicroStepsReachTheSameState
  intro s t w es i hc hi hd hexec
  have hrun : drive (planOf i) es (beginCommand i (planOf i) { s with inputs := es }) = .next t := by
    simpa only [exec_eq_runCommand, runCommand, hc] using hexec
  have henc : decode s.cfg.maxBurst (encode i) = .ok i := by rw [encode_of_decode hd, hd]
  have hin : InFlightIs i (beginCommand i (planOf i) { s with inputs := es }) := inFlightIs_beginCommand _ henc
  obtain ⟨k, hk⟩ := microRun_of_drive (beginCommand_inputs _ _ _) hin hrun
  exact ⟨k, by rw [microRun_succ k (microStep_accepts hc hi hd), hk]⟩

end Sys2Proof.Machine
end

section
/-! PROOFS. The host's window: the registers and their bits, and what a host access does to the block, idle or in
flight (R23 to R33, R59). -/

namespace Sys2Proof.Machine

/-! ### What a step does with one event -/

/-- The idle block accepts a legal command word, which runs. -/
theorem step_command {s : State} {w : Word} {es : List Event} {i : Instr} (hc : s.ctl = .idle)
    (hi : s.inputs = .hostWrite 32 0 w :: es) (hd : decode s.cfg.maxBurst w = .ok i) :
    step s = exec i { s with inputs := es } := by
  have hw : isCmdWrite 32 0 = true := rfl
  simp only [step, fetch, hi, hc, fetchIdle, hw, if_true, hd]

/-- The idle block accepts an illegal word, which completes at once. -/
theorem step_illegal {s : State} {w : Word} {es : List Event} {r : IllegalWord} (hc : s.ctl = .idle)
    (hi : s.inputs = .hostWrite 32 0 w :: es) (hd : decode s.cfg.maxBurst w = .error r) :
    step s = .next (State.acceptIllegal { s with inputs := es }) := by
  have hw : isCmdWrite 32 0 = true := rfl
  simp only [step, fetch, hi, hc, fetchIdle, hw, if_true, hd]

/-- Any other event stands beside the idle block. -/
theorem step_bystander {s : State} {e : Event} {es : List Event} (hc : s.ctl = .idle) (hi : s.inputs = e :: es)
    (he : ∀ width off w, e = .hostWrite width off w → isCmdWrite width off = false) :
    step s = bystander e { s with inputs := es } := by
  cases e with
  | hostWrite width off w => simp [step, fetch, hi, hc, fetchIdle, he _ _ _ rfl]
  | _ => simp only [step, fetch, hi, hc, fetchIdle]

/-- An event while a command is in flight. -/
theorem step_lands {s : State} {e : Event} {es : List Event} {i : Instr} (hc : s.ctl = .busy)
    (hi : s.inputs = e :: es) (hd : decode s.cfg.maxBurst s.cmd = .ok i) :
    step s = land (planOf i) e { s with inputs := es } := by
  simp only [step, fetch, hi, hc, fetchBusy, hd]

/-- Settles O8: the block fetches the word from the host's write, and runs what it decodes to. -/
theorem stepRunsTheDecodedCommand : Obligations.StepRunsTheDecodedCommand := by
  unfold Obligations.StepRunsTheDecodedCommand
  intro s w es i hc hi hd
  exact step_command hc hi hd

/-! ### Host accesses without an effect -/

theorem isCmdWrite_of_ne {width : Nat} {off : BitVec 6} (h : off ≠ 0) : isCmdWrite width off = false := by
  simp only [isCmdWrite, h, decide_false, Bool.and_false]

theorem State.idle_or_busy (s : State) : s.ctl = .idle ∨ s.ctl = .busy := by
  cases s.ctl
  · exact .inl rfl
  · exact .inr rfl

/-- A host write to another offset than CMD is ignored, idle or in flight (R23). -/
theorem step_hostWrite_ignored {s : State} {width : Nat} {off : BitVec 6} {w : Word} {es : List Event}
    (hd : s.ctl = .busy → ∃ i, decode s.cfg.maxBurst s.cmd = .ok i) (ho : off ≠ 0)
    (hi : s.inputs = .hostWrite width off w :: es) : step s = .next { s with inputs := es } := by
  have hw : isCmdWrite width off = false := isCmdWrite_of_ne ho
  obtain hc | hc := s.idle_or_busy
  · rw [step_bystander hc hi (by rintro _ _ _ ⟨⟩; exact hw)]
    rfl
  · obtain ⟨i, hd⟩ := hd hc
    rw [step_lands hc hi hd]
    simp [land, hw]

/-- A host read changes the model's log of reads only, idle or in flight (R23). -/
theorem step_hostRead {s : State} {width : Nat} {off : BitVec 6} {es : List Event}
    (hd : s.ctl = .busy → ∃ i, decode s.cfg.maxBurst s.cmd = .ok i)
    (hi : s.inputs = .hostRead width off :: es) : step s = .next ({ s with inputs := es }.hostRead width off) := by
  obtain hc | hc := s.idle_or_busy
  · exact step_bystander hc hi nofun
  · obtain ⟨i, hd⟩ := hd hc
    exact step_lands hc hi hd

/-! ### What a 32-bit read returns -/

section
variable (s : State)

@[simp] theorem State.hostValue_cmd : s.hostValue 32 0x00 = 0 := by
  simp [State.hostValue, definedAccess, isRdata, State.register]

@[simp] theorem State.hostValue_status : s.hostValue 32 0x04 = s.status.toWord := by
  simp [State.hostValue, definedAccess, isRdata, State.register]

@[simp] theorem State.hostValue_nativeErr : s.hostValue 32 0x08 = s.nativeErr := by
  simp [State.hostValue, definedAccess, isRdata, State.register]

@[simp] theorem State.hostValue_config : s.hostValue 32 0x0C = configWord s.cfg := by
  simp [State.hostValue, definedAccess, isRdata, State.register]

/-- Beyond CONFIG there are the RDATA registers and reserved offsets only (R23). -/
theorem State.register_beyond_config {off : BitVec 6} (h : 0x0C < off.toNat) :
    s.register off = if 0x20 ≤ off.toNat then rdataWord s.cfg.maxBurst s.rbuf ((off.toNat - 0x20) / 4) else 0 := by
  unfold State.register
  split
  case h_4 => rfl
  all_goals omega

theorem State.hostValue_reserved {off : BitVec 6} (h : 0x10 ≤ off.toNat) (h' : off.toNat < 0x20) :
    s.hostValue 32 off = 0 := by
  have hr : ¬0x20 ≤ off.toNat := by omega
  simp [State.hostValue, isRdata, s.register_beyond_config (by omega : 0x0C < off.toNat), hr]

/-- RDATAj while IDLE (R33). -/
theorem State.hostValue_rdata (hc : s.ctl = .idle) {j : Nat} (hj : j < 8) :
    s.hostValue 32 (BitVec.ofNat 6 (0x20 + 4 * j)) = rdataWord s.cfg.maxBurst s.rbuf j := by
  have ho : (BitVec.ofNat 6 (0x20 + 4 * j)).toNat = 0x20 + 4 * j := by
    rw [BitVec.toNat_ofNat]
    omega
  have hj' : (0x20 + 4 * j - 0x20) / 4 = j := by omega
  have aligned : (0x20 + 4 * j) % 4 = 0 := by omega
  rw [State.hostValue, s.register_beyond_config (by omega), ho, hj']
  simp [definedAccess, ho, aligned, hc]

end

/-- Byte lane r of RDATAj is byte 4j + r of the buffer (R33, R59). -/
theorem rdataWord_lane (maxBurst : Nat) (buf : List Byte) (j : Nat) {r : Nat} (hr : r < 4) :
    (rdataWord maxBurst buf j).extractLsb' (8 * r) 8 = bufByte maxBurst buf (4 * j + r) := by
  unfold rdataWord
  interval_cases r
  · exact BitVec.extractLsb'_append_eq_right
  · rw [BitVec.extractLsb'_append_eq_of_le (by omega)]
    exact BitVec.extractLsb'_append_eq_right
  · iterate 2 rw [BitVec.extractLsb'_append_eq_of_le (by omega)]
    exact BitVec.extractLsb'_append_eq_right
  · iterate 2 rw [BitVec.extractLsb'_append_eq_of_le (by omega)]
    exact BitVec.extractLsb'_append_eq_left

/-! ### STATUS (R25) -/

section
variable (s : Status)

@[simp] theorem Status.toWord_busy : s.toWord.getLsbD 0 = s.busy := by
  simp only [Status.toWord, BitVec.getLsbD_append]
  simp

@[simp] theorem Status.toWord_done : s.toWord.getLsbD 1 = s.done := by
  simp only [Status.toWord, BitVec.getLsbD_append]
  simp

@[simp] theorem Status.toWord_err : s.toWord.getLsbD 2 = s.err := by
  simp only [Status.toWord, BitVec.getLsbD_append]
  simp

@[simp] theorem Status.toWord_bit3 : s.toWord.getLsbD 3 = false := by
  simp only [Status.toWord, BitVec.getLsbD_append]
  simp

@[simp] theorem Status.toWord_errkind : s.toWord.extractLsb' 4 3 = s.errkind.code := by
  unfold Status.toWord
  iterate 4 rw [BitVec.extractLsb'_append_eq_of_le (by omega)]
  exact BitVec.extractLsb'_append_eq_right

@[simp] theorem Status.toWord_bit7 : s.toWord.getLsbD 7 = false := by
  simp only [Status.toWord, BitVec.getLsbD_append]
  simp

@[simp] theorem Status.toWord_ovr : s.toWord.getLsbD 8 = s.ovr := by
  simp only [Status.toWord, BitVec.getLsbD_append]
  simp

@[simp] theorem Status.toWord_high : s.toWord.extractLsb' 9 23 = 0 := by
  unfold Status.toWord
  iterate 6 rw [BitVec.extractLsb'_append_eq_of_le (by omega)]
  exact BitVec.extractLsb'_append_eq_left

end

theorem ErrKind.code_le (k : ErrKind) : k.code.toNat ≤ 5 := by cases k <;> decide

/-- Settles O44: the bits are the fields of STATUS, which the invariant ties to `ctl` and to each other. -/
theorem statusWordFields : Obligations.StatusWordFields := by
  unfold Obligations.StatusWordFields
  refine ⟨fun s h => ?_, fun s w es h hi => ?_⟩
  · exact ⟨by rw [Status.toWord_busy, h.busyFlag], s.status.toWord_done, by rw [Status.toWord_err, h.errFlag],
      s.status.toWord_bit3, s.status.toWord_errkind, s.status.toWord_bit7, s.status.toWord_ovr, s.status.toWord_high,
      by rw [Status.toWord_busy, Status.toWord_done]; exact h.notBoth, s.status.errkind.code_le, s.hostValue_status⟩
  · have legal : s.ctl = .busy → ∃ i, decode s.cfg.maxBurst s.cmd = .ok i := fun hc =>
      have ⟨i, hf⟩ := h.inFlight hc
      ⟨i, hf.command⟩
    exact step_hostWrite_ignored legal (by decide) hi

/-! ### CONFIG (R32) -/

section
variable (c : Config)

theorem configWord_transport : (configWord c).getLsbD 0 = decide (c.transport = .addressed) := by
  simp only [configWord, BitVec.getLsbD_append]
  cases c.transport <;> simp [transportBit]

theorem configWord_low : (configWord c).extractLsb' 1 7 = 0 := by
  unfold configWord
  rw [BitVec.extractLsb'_append_eq_of_le (by omega)]
  exact BitVec.extractLsb'_append_eq_right

theorem configWord_devAddr :
    (configWord c).extractLsb' 8 7 = if c.transport = .addressed then c.devAddr else 0 := by
  unfold configWord
  iterate 2 rw [BitVec.extractLsb'_append_eq_of_le (by omega)]
  rw [BitVec.extractLsb'_append_eq_right]
  cases c.transport <;> rfl

theorem configWord_bit15 : (configWord c).getLsbD 15 = false := by
  simp only [configWord, BitVec.getLsbD_append]
  simp

theorem configWord_maxBurst : (configWord c).extractLsb' 16 6 = BitVec.ofNat 6 c.maxBurst := by
  unfold configWord
  iterate 4 rw [BitVec.extractLsb'_append_eq_of_le (by omega)]
  exact BitVec.extractLsb'_append_eq_right

theorem configWord_high : (configWord c).extractLsb' 22 10 = 0 := by
  unfold configWord
  iterate 4 rw [BitVec.extractLsb'_append_eq_of_le (by omega)]
  exact BitVec.extractLsb'_append_eq_left

end

@[simp] theorem beginCommand_cfg (i : Instr) (p : Plan) (s : State) : (beginCommand i p s).cfg = s.cfg := by
  unfold beginCommand
  split <;> rfl

/-- A command of the idle block is accepted, and runs through the events that are there. -/
theorem exec_accepts {i : Instr} {s : State} (hc : s.ctl = .idle) :
    exec i s = drive (planOf i) s.inputs (beginCommand i (planOf i) s) := by
  simp only [exec_eq_runCommand, runCommand, hc]

/-- No command changes the parameters, whatever the events. -/
theorem exec_cfg {i : Instr} {s t : State} (h : exec i s = .next t) : t.cfg = s.cfg := by
  obtain hc | hc := s.idle_or_busy
  · rw [exec_accepts hc] at h
    exact drive_keeps (P := fun t => t.cfg = s.cfg) (fun e es u v _ hu hl => (land_inputs hl).2.trans hu) h
      (beginCommand_cfg i _ s)
  · rw [exec_busy i hc] at h
    cases h
    rfl

/-- No step changes the parameters (R6, R32). -/
theorem step_cfg {s t : State} (h : step s = .next t) : t.cfg = s.cfg := by
  obtain ⟨-, rfl⟩ | ⟨e, es, -, -, ⟨w, i, -, -, hx⟩ | ⟨w, r, -, -, rfl⟩ | hb⟩ | ⟨e, es, i, -, -, -, hl⟩ := step_cases h
  · rfl
  · exact (exec_cfg hx :)
  · rfl
  · obtain ⟨_, _, _, -, rfl⟩ | ⟨_, _, -, rfl⟩ | ⟨-, rfl⟩ | ⟨_, _, -, rfl⟩ := bystander_cases hb
    · rfl
    · rfl
    · exact State.blockReset_cfg _
    · rfl
  · exact (land_inputs hl).2

/-- Settles O45: CONFIG shows the parameters, which no step changes. -/
theorem configIsConstant : Obligations.ConfigIsConstant := by
  unfold Obligations.ConfigIsConstant
  refine ⟨fun c hc => ?_, fun s t h => ?_⟩
  · obtain ⟨-, -, hmax, -⟩ := hc
    have fits : c.maxBurst % 2 ^ 6 = c.maxBurst := Nat.mod_eq_of_lt (by omega)
    exact ⟨configWord_transport c, configWord_low c, configWord_devAddr c, configWord_bit15 c,
      by rw [configWord_maxBurst, BitVec.toNat_ofNat, fits], configWord_high c⟩
  · exact ⟨step_cfg h, by rw [State.hostValue_config, State.hostValue_config, step_cfg h]⟩

/-! ### Accesses to the window -/

/-- Settles O47: each register by the lemma about it, and the accesses without an effect. -/
theorem windowRegisters : Obligations.WindowRegisters := by
  unfold Obligations.WindowRegisters
  refine ⟨fun s hc => ?_, fun s off w es hd _ => ?_⟩
  · refine ⟨s.hostValue_cmd, s.hostValue_status, s.hostValue_nativeErr, s.hostValue_config,
      fun off => s.hostValue_reserved, fun k hk => ?_⟩
    rw [s.hostValue_rdata hc (by omega), rdataWord_lane _ _ _ (Nat.mod_lt k (by omega)), Nat.div_add_mod]
    rfl
  · exact ⟨fun ho hi => step_hostWrite_ignored hd ho hi, fun hi => step_hostRead hd hi⟩

/-- Acceptance of an illegal word leaves the record of R213 and R214. -/
theorem State.acceptIllegal_eq {s : State} (hb : s.ctl = .idle) :
    s.acceptIllegal =
      { s with
        status := { busy := false, done := true, err := true, errkind := .illegal, ovr := false }
        nativeErr := 0 } := by
  have hn : captureNative s.cfg.nativeErrW 0 = 0 := by simp [captureNative]
  simp only [State.acceptIllegal, State.complete, State.clearRecord, hn, ← hb]
  rfl

/-- Settles O9: acceptance while IDLE by what the word decodes to, the overrun while BUSY. -/
theorem hostWriteToCmd : Obligations.HostWriteToCmd := by
  unfold Obligations.HostWriteToCmd
  refine ⟨fun s w es hi => ⟨fun hc => ⟨fun i hd => step_command hc hi hd, fun r hd => ?_⟩, ?_⟩, State.hostValue_cmd⟩
  · rw [step_illegal hc hi hd, State.acceptIllegal_eq (s := { s with inputs := es }) hc]
  · rintro hc ⟨i, hd⟩
    rw [step_lands hc hi hd]
    rfl

end Sys2Proof.Machine
end

section
/-! PROOFS. The controller's move: what a command in flight keeps of its phase and its received bytes, and what it
changes of the read buffer and the latch (R33 to R35, R105, R133, R136, R150). -/

namespace Sys2Proof.Machine

/-! ### The received bytes -/

/-- The reply carries as many bytes as the command's read transaction receives, where the primitive in flight is the
one that receives them (R119). -/
def Answers (p : Plan) (s : State) (rep : Reply) : Prop :=
  ∀ R, rep = .ok R → (s.step = .fExch ∨ (s.step = .aXfer ∧ s.phase = .read)) → R.length = p.count

theorem Plan.prim_expects (p : Plan) {s : State} (h : s.step = .fExch ∨ (s.step = .aXfer ∧ s.phase = .read)) :
    (p.prim s).expects = p.count := by
  obtain hs | ⟨hs, hp⟩ := h
  · simp [Plan.prim, hs, Prim.expects]
  · simp [Plan.prim, hs, hp, Prim.expects]

theorem answers_of_perform {p : Plan} {e : Event} {s s' : State} {rep : Reply}
    (h : perform p.reg (p.prim s) e s = .ok (rep, s')) : Answers p s' rep := by
  obtain ⟨-, length, hs'⟩ := perform_spec h
  intro R hR receives
  have same : s'.step = s.step ∧ s'.phase = s.phase := by rw [hs']; exact ⟨rfl, rfl⟩
  rw [same.1, same.2] at receives
  rw [length R hR, p.prim_expects receives]

/-- What holds of the transaction of a command in flight, whatever state the command began in: its phase, and the bytes
it holds after the body of a read without error. -/
structure Running (i : Instr) (s : State) : Prop where
  phase : hasPhase i s.phase = true
  received : s.step.afterBody = true → s.firstErr = none → s.phase = .read → s.rx.length = (planOf i).count

theorem InFlight.running {s : State} {i : Instr} (f : InFlight s i) : Running i s := ⟨f.phase, f.received⟩

theorem hasPhase_first (i : Instr) : hasPhase i (planOf i).first = true := by cases i <;> rfl

theorem phase_read_of_not_write {i : Instr} {ph : Phase} (h : hasPhase i ph = true)
    (hw : hasPhase i .write = false) : ph = .read := by
  cases ph with
  | read => rfl
  | write => rw [hw] at h; cases h

theorem TxnStep.afterBody_first (t : Transport) :
    (if t = .framed then TxnStep.fAssert else .aXfer).afterBody = false := by
  cases t <;> rfl

theorem running_startTxn {i : Instr} {ph : Phase} (h : hasPhase i ph = true) (s : State) :
    Running i (State.startTxn ph s) where
  phase := h
  received := by simp [State.startTxn_step, TxnStep.afterBody_first]

/-! ### The end of a transaction -/

@[simp] theorem Plan.endTxn_of_none (p : Plan) {s : State} (h : s.firstErr = none) : p.endTxn s = p.onOk s := by
  simp only [Plan.endTxn, h]

@[simp] theorem Plan.endTxn_of_some (p : Plan) {s : State} {k : ErrKind} {e : Nat} (h : s.firstErr = some (k, e)) :
    p.endTxn s = p.onErr k e s := by
  simp only [Plan.endTxn, h]

/-- The end of a transaction leaves its phase, step and received bytes, or the write phase of SETF begins. -/
theorem planOf_endTxn_txn (i : Instr) (s : State) :
    ((planOf i).endTxn s).phase = s.phase ∧ ((planOf i).endTxn s).step = s.step ∧
        ((planOf i).endTxn s).firstErr = s.firstErr ∧ ((planOf i).endTxn s).rx = s.rx ∨
      hasPhase i .write = true ∧ (planOf i).endTxn s = s.toWritePhase := by
  unfold Plan.endTxn
  split
  · cases i with
    | setf =>
      simp only [planOf, planSetf]
      split
      · exact .inr ⟨rfl, rfl⟩
      · exact .inl ⟨rfl, rfl, rfl, rfl⟩
    | _ => exact .inl ⟨rfl, rfl, rfl, rfl⟩
  · cases i <;> exact .inl ⟨rfl, rfl, rfl, rfl⟩

theorem running_endTxn {i : Instr} {s : State} (h : Running i s) : Running i ((planOf i).endTxn s) := by
  obtain ⟨hp, hst, he, hx⟩ | ⟨hw, he⟩ := planOf_endTxn_txn i s
  · exact ⟨hp ▸ h.phase, by rw [hp, hst, he, hx]; exact h.received⟩
  · exact he ▸ running_startTxn hw _

@[simp] theorem Plan.unsureWrite_phase (p : Plan) (s : State) : (p.unsureWrite s).phase = s.phase := by
  rw [Plan.unsureWrite_eq]

@[simp] theorem Plan.unsureWrite_step (p : Plan) (s : State) : (p.unsureWrite s).step = s.step := by
  rw [Plan.unsureWrite_eq]

@[simp] theorem Plan.unsureWrite_firstErr (p : Plan) (s : State) : (p.unsureWrite s).firstErr = s.firstErr := by
  rw [Plan.unsureWrite_eq]

@[simp] theorem Plan.unsureWrite_rx (p : Plan) (s : State) : (p.unsureWrite s).rx = s.rx := by
  rw [Plan.unsureWrite_eq]

@[simp] theorem Plan.unsureWrite_rbuf (p : Plan) (s : State) : (p.unsureWrite s).rbuf = s.rbuf := by
  rw [Plan.unsureWrite_eq]

@[simp] theorem Plan.unsureWrite_rmwLatch (p : Plan) (s : State) : (p.unsureWrite s).rmwLatch = s.rmwLatch := by
  rw [Plan.unsureWrite_eq]

/-- Before the release no byte has been stored, so nothing is claimed of them. -/
theorem running_of_beforeRelease {i : Instr} {s : State} (hp : hasPhase i s.phase = true)
    (hs : s.step.afterBody = false) : Running i s :=
  ⟨hp, by simp [hs]⟩

/-- The controller's move keeps what holds of the transaction: the bytes come with PhyExchange or PhyAddrSendRecv. -/
theorem running_advance {i : Instr} {rep : Reply} {s : State} (h : Running i s) (hr : Answers (planOf i) s rep) :
    Running i ((planOf i).advance rep s) := by
  obtain ⟨hp, hrx⟩ := h
  unfold Plan.advance
  cases hs : s.step <;> cases rep
  case fAssert.ok => exact running_of_beforeRelease hp rfl
  case fAssert.err =>
    exact running_endTxn (running_of_beforeRelease (by simpa using hp) (by simp [hs, TxnStep.afterBody]))
  case fSettle1.ok => exact running_of_beforeRelease hp rfl
  case fSettle1.err => exact running_of_beforeRelease hp rfl
  case fSend.ok =>
    cases hph : s.phase
    · exact running_of_beforeRelease (hph ▸ hp) rfl
    · exact ⟨hph ▸ hp, nofun⟩
  case fSend.err => exact ⟨hp, nofun⟩
  case fExch.ok R => exact ⟨hp, fun _ _ _ => hr R rfl (.inl hs)⟩
  case fExch.err => exact ⟨hp, nofun⟩
  case fRelease.ok => exact ⟨hp, fun _ => hrx (by rw [hs]; rfl)⟩
  case fRelease.err => exact ⟨by simpa using hp, by simp⟩
  case fSettle2.ok => exact running_endTxn ⟨hp, hrx⟩
  case fSettle2.err => exact running_endTxn ⟨hp, hrx⟩
  case aXfer.ok => exact running_endTxn (running_of_beforeRelease hp rfl)
  case aXfer.err => exact running_endTxn (running_of_beforeRelease hp rfl)

/-! ### The read buffer and the latch -/

/-- How many bytes at the front of the read buffer a command may change (R130, R133, R136, R150). -/
def storedBytes : Instr → Nat
  | .write _ _ => 0
  | .read _ => 1
  | .reads _ n => n
  | .setf _ _ _ _ => 0

/-- Only SETF writes the latch (R35). -/
def writesLatch : Instr → Bool
  | .setf _ _ _ _ => true
  | .write _ _ => false
  | .read _ => false
  | .reads _ _ => false

/-- What a command leaves of the read buffer and the latch. -/
structure BufferFrame (i : Instr) (s t : State) : Prop where
  rbuf : t.rbuf.drop (storedBytes i) = s.rbuf.drop (storedBytes i)
  latch : writesLatch i = false → t.rmwLatch = s.rmwLatch

theorem BufferFrame.of_eq {i : Instr} {s t : State} (hb : t.rbuf = s.rbuf) (hl : t.rmwLatch = s.rmwLatch) :
    BufferFrame i s t :=
  ⟨by rw [hb], fun _ => hl⟩

theorem BufferFrame.trans {i : Instr} {s t u : State} (h : BufferFrame i s t) (h' : BufferFrame i t u) :
    BufferFrame i s u :=
  ⟨h'.rbuf.trans h.rbuf, fun hi => (h'.latch hi).trans (h.latch hi)⟩

@[simp] theorem State.freeBytes_length (s : State) (n : Nat) : (s.freeBytes n).length = n := by
  simp [State.freeBytes]

theorem drop_overwritePrefix {R : List Byte} {n : Nat} (h : R.length = n) (buf : List Byte) :
    (overwritePrefix R buf).drop n = buf.drop n := by
  subst h
  exact List.drop_left

/-- The end of a transaction stores the bytes it received, or free values in their place. -/
theorem bufferFrame_endTxn {i : Instr} {s₀ s : State} (hb : s.rbuf = s₀.rbuf) (hl : s.rmwLatch = s₀.rmwLatch)
    (hp : hasPhase i s.phase = true)
    (hx : s.firstErr = none → s.phase = .read → s.rx.length = (planOf i).count) :
    BufferFrame i s₀ ((planOf i).endTxn s) := by
  refine BufferFrame.trans (.of_eq hb hl) ?_
  cases he : s.firstErr with
  | none =>
    rw [Plan.endTxn_of_none _ he]
    have length := hx he
    cases i with
    | write => exact .of_eq rfl rfl
    | read | reads =>
      exact ⟨drop_overwritePrefix (length (phase_read_of_not_write hp rfl)) _, fun _ => rfl⟩
    | setf =>
      simp only [planOf, planSetf]
      split
      · exact ⟨rfl, nofun⟩
      · exact .of_eq rfl rfl
  | some err =>
    rw [Plan.endTxn_of_some _ he]
    cases i with
    | write | setf => exact .of_eq rfl rfl
    | read | reads => exact ⟨drop_overwritePrefix (State.freeBytes_length s _) _, fun _ => rfl⟩

/-- The controller's move leaves the buffer beyond the command's bytes, and the latch to SETF. -/
theorem bufferFrame_advance {i : Instr} {rep : Reply} {s : State} (h : Running i s) (hr : Answers (planOf i) s rep) :
    BufferFrame i s ((planOf i).advance rep s) := by
  obtain ⟨hp, hrx⟩ := h
  unfold Plan.advance
  cases hs : s.step <;> cases rep
  case fAssert.err => exact bufferFrame_endTxn (by simp) (by simp) (by simpa using hp) nofun
  case fRelease.err => exact .of_eq (by simp) (by simp)
  case fSettle2.ok => exact bufferFrame_endTxn rfl rfl hp (hrx (by rw [hs]; rfl))
  case fSettle2.err => exact bufferFrame_endTxn rfl rfl hp (hrx (by rw [hs]; rfl))
  case aXfer.ok R => exact bufferFrame_endTxn rfl rfl hp fun _ hph => hr R rfl (.inr ⟨hs, hph⟩)
  case aXfer.err => exact bufferFrame_endTxn rfl rfl hp nofun
  all_goals exact .of_eq rfl rfl

/-- No event but block reset disturbs the transaction, or the buffer and the latch beyond what the command writes. -/
theorem running_land {i : Instr} {e : Event} {s t : State} (h : Running i s) (he : e.isReset = false)
    (hl : land (planOf i) e s = .next t) : Running i t ∧ BufferFrame i s t := by
  obtain ⟨_, _, _, _, rfl⟩ | ⟨_, _, _, rfl⟩ | ⟨rfl, -⟩ | ⟨_, _, _, rfl⟩ | ⟨rep, s', hperf, rfl⟩ := land_cases hl
  · split
    · exact ⟨⟨h.phase, h.received⟩, .of_eq rfl rfl⟩
    · exact ⟨h, .of_eq rfl rfl⟩
  · exact ⟨⟨h.phase, h.received⟩, .of_eq rfl rfl⟩
  · cases he
  · exact ⟨⟨h.phase, h.received⟩, .of_eq rfl rfl⟩
  · obtain ⟨-, -, hs'⟩ := perform_spec hperf
    have h' : Running i s' := by rw [hs']; exact ⟨h.phase, h.received⟩
    have frame : BufferFrame i s s' := by rw [hs']; exact .of_eq rfl rfl
    have hr := answers_of_perform hperf
    exact ⟨running_advance h' hr, frame.trans (bufferFrame_advance h' hr)⟩

/-- What every event of a list keeps, the run through that list keeps. -/
theorem drive_keeps_of_mem {p : Plan} {P : State → Prop} {l : List Event}
    (hP : ∀ e ∈ l, ∀ es s t, P s → land p e { s with inputs := es } = .next t → P t)
    {s t : State} (h : drive p l s = .next t) (hs : P s) : P t := by
  induction l generalizing s with
  | nil => cases h; exact hs
  | cons e es ih =>
    obtain hc | hc := s.idle_or_busy
    · rw [drive_idle _ _ hc] at h
      cases h
      exact hs
    · rw [drive_busy _ _ _ hc] at h
      split at h
      · next s' hl => exact ih (fun e he => hP e (List.mem_cons_of_mem _ he)) h (hP e List.mem_cons_self es s s' hs hl)
      · cases h
      · cases h

/-- What a command leaves of the read buffer and the latch, however it ends. -/
theorem exec_bufferFrame {i : Instr} {s t : State} (he : ∀ e ∈ s.inputs, e.isReset = false)
    (h : exec i s = .next t) : BufferFrame i s t := by
  obtain hc | hc := s.idle_or_busy
  · cases hw : i.wf s.cfg.maxBurst with
    | false =>
      rw [exec_illformed hc hw] at h
      cases h
      exact .of_eq rfl rfl
    | true =>
      rw [exec_idle hc hw] at h
      have start : Running i (s.clearRecord.startCommand (encode i) (planOf i).first) :=
        running_startTxn (hasPhase_first i) _
      refine (drive_keeps_of_mem (P := fun u => Running i u ∧ BufferFrame i s u) ?_ h ⟨start, .of_eq rfl rfl⟩).2
      rintro e hmem es u v ⟨hu, frame⟩ hl
      obtain ⟨hv, step⟩ := running_land (s := { u with inputs := es }) ⟨hu.phase, hu.received⟩ (he e hmem) hl
      exact ⟨hv, frame.trans ⟨step.rbuf, step.latch⟩⟩
  · rw [exec_busy i hc] at h
    cases h
    exact .of_eq rfl rfl

/-- Settles O42: the frame of the run, read off for each command. -/
theorem readBufferAndLatchFrame : Obligations.ReadBufferAndLatchFrame := by
  unfold Obligations.ReadBufferAndLatchFrame
  intro s t i he h
  obtain ⟨rbuf, latch⟩ := exec_bufferFrame he h
  refine ⟨exec_cfg h, ?_⟩
  cases i with
  | write => exact ⟨rbuf, latch rfl⟩
  | read => exact ⟨rbuf, latch rfl⟩
  | reads => exact ⟨rbuf, latch rfl⟩
  | setf => exact rbuf

end Sys2Proof.Machine
end

section
/-! PROOFS. The invariant of the machine: reset has it, and every step keeps it (R25 to R36, R39, R105 to R110). -/

namespace Sys2Proof.Machine

/-! ### What stands outside the block -/

/-- `t` is `s` but for the reference device, the chip-select line, the events, the observations and the draws. -/
def SameBlock (s t : State) : Prop :=
  t = { s with
    dev := t.dev
    lineKnown := t.lineKnown
    inputs := t.inputs
    trace := t.trace
    hostLog := t.hostLog
    freeCtr := t.freeCtr }

theorem sameBlock_inputs (s : State) (es : List Event) : SameBlock s { s with inputs := es } := rfl

theorem sameBlock_hostRead (s : State) (width : Nat) (off : BitVec 6) : SameBlock s (s.hostRead width off) := rfl

theorem sameBlock_devWrite (s : State) (a : RegAddr) (v : Byte) : SameBlock s (s.devWrite a v) := rfl

theorem sameBlock_unsureWrite (p : Plan) (s : State) : SameBlock s (p.unsureWrite s) := by
  unfold SameBlock
  rw [Plan.unsureWrite_eq]

theorem sameBlock_perform {reg : RegAddr} {pr : Prim} {e : Event} {s s' : State} {rep : Reply}
    (h : perform reg pr e s = .ok (rep, s')) : SameBlock s s' := by
  obtain ⟨-, -, hs'⟩ := perform_spec h
  rw [hs']
  rfl

theorem SameBlock.ctl {s t : State} (h : SameBlock s t) : t.ctl = s.ctl := by rw [h]

theorem InFlight.outside {s t : State} {i : Instr} (f : InFlight s i) (h : SameBlock s t) : InFlight t i := by
  rw [h]
  exact ⟨f.command, f.phase, f.step, f.select, f.noEarlyError, f.errorKind, f.received⟩

/-- The invariant speaks of the block and of the canonical form of the device registers only. -/
theorem Invariant.outside {s t : State} (h : Invariant s) (hb : SameBlock s t) (hd : t.dev.wf) : Invariant t := by
  have inFlight : t.ctl = .busy → ∃ i, InFlight t i := fun hc =>
    (h.inFlight (hb.ctl ▸ hc)).imp fun _ f => f.outside hb
  rw [hb] at inFlight ⊢
  exact { h with device := hd, inFlight := inFlight }

/-! ### Reset (R39, R240) -/

/-- What R39 gives the block at reset is enough for the invariant. -/
theorem invariant_of_reset {s : State} (params : s.cfg.wf) (ctl : s.ctl = .idle) (status : s.status = Status.reset)
    (nativeErr : s.nativeErr = 0) (select : s.csAsserted = false) (buffer : s.rbuf.length = s.cfg.maxBurst)
    (device : s.dev.wf) : Invariant s where
  params := params
  busyFlag := by simp [status, Status.reset, ctl]
  notBoth := by simp [status, Status.reset]
  errFlag := by simp [status, Status.reset]
  kindDone := by simp [status, Status.reset]
  kindAllowed := by simp [status, Status.reset, ErrKind.allowed]
  nativeWidth := by simp [nativeErr]
  nativeZero := fun _ => nativeErr
  buffer := buffer
  device := device
  idleSelect := fun _ => select
  inFlight := by simp [ctl]

theorem Invariant.blockReset {s : State} (h : Invariant s) : Invariant s.blockReset :=
  invariant_of_reset (by simpa using h.params) (by simp) (by simp) (by simp) (by simp) (by simp)
    (State.blockReset_wf h.device)

/-- Settles O13: the reset state of every build is one to which R39 gives its values. -/
theorem resetHasTheInvariant : Obligations.ResetHasTheInvariant := by
  unfold Obligations.ResetHasTheInvariant
  have reset (c : Config) (latch : Byte) (buf : List Byte) (hc : c.wf) (hb : buf.length = c.maxBurst) :
      Invariant (State.resetWith c latch buf) :=
    invariant_of_reset hc rfl rfl rfl rfl hb Memory.wf_nil
  exact ⟨reset _ _ _ (by decide) List.length_replicate, reset⟩

/-! ### Completion (R214) -/

theorem captureNative_lt (w n : Nat) : (captureNative w n).toNat < 2 ^ w := by
  rw [captureNative, BitVec.toNat_ofNat]
  exact (Nat.mod_le _ _).trans_lt (Nat.mod_lt _ (Nat.two_pow_pos w))

@[simp] theorem captureNative_zero (w : Nat) : captureNative w 0 = 0 := by simp [captureNative]

/-- A completion sets the flags anew, so it asks nothing of the flags before. -/
theorem invariant_complete {s : State} {k : ErrKind} {e : Nat} (params : s.cfg.wf)
    (buffer : s.rbuf.length = s.cfg.maxBurst) (device : s.dev.wf) (select : s.csAsserted = false)
    (allowed : k.allowed s.cfg.transport = true) (errZero : k = .none ∨ k = .illegal → e = 0) :
    Invariant (s.complete k e) where
  params := params
  busyFlag := rfl
  notBoth := nofun
  errFlag := rfl
  kindDone := fun _ => rfl
  kindAllowed := allowed
  nativeWidth := captureNative_lt _ _
  nativeZero := fun h => by rw [State.complete_nativeErr, errZero h, captureNative_zero]
  buffer := buffer
  device := device
  idleSelect := fun _ => select
  inFlight := nofun

theorem Invariant.acceptIllegal {s : State} (h : Invariant s) (hc : s.ctl = .idle) : Invariant s.acceptIllegal :=
  invariant_complete h.params h.buffer h.device (h.idleSelect hc) (by cases s.cfg.transport <;> rfl) fun _ => rfl

/-! ### The beginning of a transaction (R105, R110, R213) -/

theorem inFlight_startTxn {i : Instr} {ph : Phase} {s : State} (command : decode s.cfg.maxBurst s.cmd = .ok i)
    (phase : hasPhase i ph = true) (select : s.csAsserted = false) : InFlight (State.startTxn ph s) i where
  command := command
  phase := phase
  step := by
    rw [State.startTxn_step]
    cases h : s.cfg.transport <;> simp [h, stepAllowed]
  select := by
    rw [State.startTxn_step]
    cases h : s.cfg.transport <;> simp [select, TxnStep.selected]
  noEarlyError := fun _ => rfl
  errorKind := nofun
  received := (running_startTxn phase s).received

/-- Acceptance of a legal word: the record is clear, and the first transaction begins. -/
theorem Invariant.startCommand {i : Instr} {s : State} {w : Word} (h : Invariant s) (hc : s.ctl = .idle)
    (hd : decode s.cfg.maxBurst w = .ok i) : Invariant (s.clearRecord.startCommand w (planOf i).first) where
  params := h.params
  busyFlag := rfl
  notBoth := nofun
  errFlag := rfl
  kindDone := fun hk => absurd rfl hk
  kindAllowed := by
    show ErrKind.none.allowed s.cfg.transport = true
    cases s.cfg.transport <;> rfl
  nativeWidth := Nat.two_pow_pos _
  nativeZero := fun _ => rfl
  buffer := h.buffer
  device := h.device
  idleSelect := nofun
  inFlight := fun _ => ⟨i, inFlight_startTxn hd (hasPhase_first i) (h.idleSelect hc)⟩

/-! ### The end of a transaction -/

theorem length_overwritePrefix {R buf : List Byte} (h : R.length ≤ buf.length) :
    (overwritePrefix R buf).length = buf.length := by
  simp [overwritePrefix, h]

/-- A legal command receives no more than the read buffer holds (R86). -/
theorem count_le_maxBurst {s : State} {i : Instr} (hp : s.cfg.wf) (hd : decode s.cfg.maxBurst s.cmd = .ok i) :
    (planOf i).count ≤ s.cfg.maxBurst := by
  have hmin : 1 ≤ s.cfg.maxBurst := Nat.le_trans (by decide) hp.2.1
  obtain ⟨-, -, row⟩ := decode_ok_cases hd
  obtain ⟨-, -, -, rfl⟩ | ⟨-, -, -, -, rfl⟩ | ⟨-, -, -, hn, rfl⟩ | ⟨-, -, rfl⟩ := row
  · exact Nat.zero_le _
  · exact hmin
  · exact hn
  · exact hmin

/-- After a transaction that succeeded the command completes, or the write phase of SETF begins. -/
theorem Invariant.onOk {s : State} {i : Instr} (h : Invariant s) (command : decode s.cfg.maxBurst s.cmd = .ok i)
    (phase : hasPhase i s.phase = true) (select : s.csAsserted = false)
    (received : s.phase = .read → s.rx.length = (planOf i).count) : Invariant ((planOf i).onOk s) := by
  have none_allowed : ErrKind.none.allowed s.cfg.transport = true := by cases s.cfg.transport <;> rfl
  cases i with
  | write => exact invariant_complete h.params h.buffer h.device select none_allowed fun _ => rfl
  | read | reads =>
    have fits : s.rx.length ≤ s.rbuf.length := by
      rw [received (phase_read_of_not_write phase rfl), h.buffer]
      exact count_le_maxBurst h.params command
    exact invariant_complete h.params ((length_overwritePrefix fits).trans h.buffer) h.device select none_allowed
      fun _ => rfl
  | setf =>
    simp only [planOf, planSetf]
    split
    · exact { h with inFlight := fun _ => ⟨_, inFlight_startTxn command rfl select⟩ }
    · exact invariant_complete h.params h.buffer h.device select none_allowed fun _ => rfl

/-- After a transaction that failed the command completes with an error of the transport. -/
theorem invariant_onErr {s : State} {i : Instr} {k : ErrKind} {e : Nat} (params : s.cfg.wf)
    (buffer : s.rbuf.length = s.cfg.maxBurst) (device : s.dev.wf) (select : s.csAsserted = false)
    (command : decode s.cfg.maxBurst s.cmd = .ok i) (allowed : k.allowed s.cfg.transport = true)
    (kind : ¬(k = .none ∨ k = .illegal)) : Invariant ((planOf i).onErr k e s) := by
  have errZero : k = .none ∨ k = .illegal → e = 0 := fun hk => absurd hk kind
  cases i with
  | write | setf => exact invariant_complete params buffer device select allowed errZero
  | read | reads =>
    have fits : (planOf _).count ≤ s.rbuf.length := buffer ▸ count_le_maxBurst params command
    refine invariant_complete params ?_ device select allowed errZero
    exact (length_overwritePrefix (by rw [State.freeBytes_length]; exact fits)).trans buffer

/-! ### The controller's move (R105 to R110) -/

/-- What a FRAMED transaction holds as its error is a kind of the transport, and an error. -/
theorem heldKind_spec {ph : Phase} {k : ErrKind} (h : heldKind ph k = true) :
    k.allowed .framed = true ∧ ¬(k = .none ∨ k = .illegal) := by
  cases k with
  | send | exchange | chipSelect => exact ⟨rfl, by simp⟩
  | none | bus | illegal => cases h

/-- A transaction with steps is a FRAMED one. -/
theorem InFlight.framed {s : State} {i : Instr} (f : InFlight s i) (h : s.step ≠ .aXfer) :
    s.cfg.transport = .framed := by
  have hst := f.step
  cases ht : s.cfg.transport with
  | framed => rfl
  | addressed =>
    cases hs : s.step with
    | aXfer => exact absurd hs h
    | _ => rw [ht, hs] at hst; cases hst

theorem stepAllowed_framed {ph : Phase} {st : TxnStep} (hst : st ≠ .aXfer) (hx : st = .fExch → ph = .read) :
    stepAllowed .framed ph st = true := by
  cases st with
  | aXfer => exact absurd rfl hst
  | fExch => rw [hx rfl]; rfl
  | _ => cases ph <;> rfl

/-- A move to another step of a FRAMED transaction asks only for what that step has to hold. -/
theorem Invariant.moved {s : State} {i : Instr} (h : Invariant s) (hb : s.ctl = .busy) (f : InFlight s i)
    (framed : s.cfg.transport = .framed) {select : Bool} {st : TxnStep} {err : Option (ErrKind × Nat)}
    {rx : List Byte} (hst : st ≠ .aXfer) (hx : st = .fExch → s.phase = .read) (hsel : select = st.selected)
    (early : st.afterBody = false → err = none) (kind : ∀ k e, err = some (k, e) → heldKind s.phase k = true)
    (received : st.afterBody = true → err = none → s.phase = .read → rx.length = (planOf i).count) :
    Invariant { s with csAsserted := select, step := st, firstErr := err, rx := rx } :=
  { h with
    idleSelect := fun hi => nomatch hb.symm.trans hi
    inFlight := fun _ =>
      ⟨i, f.command, f.phase, framed.symm ▸ stepAllowed_framed hst hx, hsel, early, kind, received⟩ }

/-- After the second settle delay the transaction ends with the error it holds, or with the bytes it holds. -/
theorem Invariant.endTxn_settled {s : State} {i : Instr} (h : Invariant s) (f : InFlight s i)
    (hs : s.step = .fSettle2) : Invariant ((planOf i).endTxn s) := by
  have select : s.csAsserted = false := by rw [f.select, hs]; rfl
  cases he : s.firstErr with
  | none =>
    rw [Plan.endTxn_of_none _ he]
    exact h.onOk f.command f.phase select (f.received (by rw [hs]; rfl) he)
  | some err =>
    obtain ⟨k, e⟩ := err
    obtain ⟨allowed, kind⟩ := heldKind_spec (f.errorKind k e he)
    rw [Plan.endTxn_of_some _ he]
    rw [← f.framed (by simp [hs])] at allowed
    exact invariant_onErr h.params h.buffer h.device select f.command allowed kind

/-- A failed assert ends the transaction with chip-select not asserted (R107). -/
theorem Invariant.endTxn_failedAssert {s : State} {i : Instr} (h : Invariant s) (f : InFlight s i)
    (hs : s.step = .fAssert) (e : Nat) :
    Invariant ((planOf i).endTxn { s with firstErr := some (.chipSelect, e) }) := by
  have select : s.csAsserted = false := by rw [f.select, hs]; rfl
  have allowed : ErrKind.chipSelect.allowed s.cfg.transport = true := by rw [f.framed (by simp [hs])]; rfl
  rw [Plan.endTxn_of_some _ rfl]
  exact invariant_onErr h.params h.buffer h.device select f.command allowed (by simp)

/-- An ADDRESSED transfer ends with the bytes received (R110). -/
theorem Invariant.endTxn_transferred {s : State} {i : Instr} (h : Invariant s) (f : InFlight s i)
    (hs : s.step = .aXfer) {R : List Byte} (hr : Answers (planOf i) s (.ok R)) :
    Invariant ((planOf i).endTxn { s with rx := R }) := by
  have hbody : s.step.afterBody = false := by rw [hs]; rfl
  have f' : InFlight { s with rx := R } i :=
    ⟨f.command, f.phase, f.step, f.select, f.noEarlyError, f.errorKind, by simp [hbody]⟩
  have h' : Invariant { s with rx := R } := { h with inFlight := fun _ => ⟨i, f'⟩ }
  rw [Plan.endTxn_of_none _ (by exact f.noEarlyError hbody)]
  exact h'.onOk f.command f.phase (by rw [f.select, hs]; rfl) fun hph => hr R rfl (.inr ⟨hs, hph⟩)

/-- An ADDRESSED transfer that failed ends with BUS (R110). -/
theorem Invariant.endTxn_failedTransfer {s : State} {i : Instr} (h : Invariant s) (f : InFlight s i)
    (hs : s.step = .aXfer) (e : Nat) : Invariant ((planOf i).endTxn { s with firstErr := some (.bus, e) }) := by
  have select : s.csAsserted = false := by rw [f.select, hs]; rfl
  have allowed : ErrKind.bus.allowed s.cfg.transport = true := by
    have hst := f.step
    rw [hs] at hst
    cases ht : s.cfg.transport with
    | framed => rw [ht] at hst; cases hst
    | addressed => rfl
  rw [Plan.endTxn_of_some _ rfl]
  exact invariant_onErr h.params h.buffer h.device select f.command allowed (by simp)

/-- A failed release holds the error of the body, or else its own (R107). -/
theorem heldKind_of_release {ph : Phase} {err : Option (ErrKind × Nat)} {n : Nat}
    (h : ∀ k e, err = some (k, e) → heldKind ph k = true) :
    ∀ k e, err.or (some (.chipSelect, n)) = some (k, e) → heldKind ph k = true := by
  rintro k e hke
  cases err with
  | none =>
    cases hke
    cases ph <;> rfl
  | some err => exact h k e hke

/-- The controller's move keeps the invariant: one case for each step and each reply. -/
theorem Invariant.advance {s : State} {i : Instr} {rep : Reply} (h : Invariant s) (hb : s.ctl = .busy)
    (f : InFlight s i) (hr : Answers (planOf i) s rep) : Invariant ((planOf i).advance rep s) := by
  have framed := f.framed
  have select := f.select
  have early := f.noEarlyError
  have unsure := sameBlock_unsureWrite (planOf i) s
  have hu : Invariant ((planOf i).unsureWrite s) := h.outside unsure ((planOf i).unsureWrite_wf h.device)
  have fu : InFlight ((planOf i).unsureWrite s) i := f.outside unsure
  unfold Plan.advance
  cases hs : s.step <;> rw [hs] at framed select early <;> cases rep
  case fAssert.ok => exact h.moved hb f (framed nofun) nofun nofun rfl (fun _ => early rfl) f.errorKind nofun
  case fAssert.err e => exact hu.endTxn_failedAssert fu (by simp [hs]) e
  case fSettle1.ok | fSettle1.err =>
    exact h.moved hb f (framed nofun) nofun nofun select (fun _ => early rfl) f.errorKind nofun
  case fSend.ok =>
    cases hph : s.phase with
    | read =>
      simpa only [hph] using h.moved hb f (framed nofun) (st := .fExch) nofun (fun _ => hph) select
        (fun _ => early rfl) f.errorKind nofun
    | write =>
      simpa only [hph] using h.moved hb f (framed nofun) (st := .fRelease) nofun nofun select
        (fun _ => early rfl) f.errorKind fun _ _ hw => nomatch hph.symm.trans hw
  case fSend.err e =>
    exact h.moved hb f (framed nofun) nofun nofun select nofun (by rintro _ _ ⟨⟩; cases s.phase <;> rfl) nofun
  case fExch.ok R =>
    exact h.moved hb f (framed nofun) nofun nofun select nofun f.errorKind fun _ _ _ => hr R rfl (.inl hs)
  case fExch.err e =>
    have read : s.phase = .read := by
      have hst := f.step
      rw [hs, framed nofun] at hst
      cases hph : s.phase with
      | read => rfl
      | write => rw [hph] at hst; cases hst
    exact h.moved hb f (framed nofun) nofun nofun select nofun (by rintro _ _ ⟨⟩; rw [read]; rfl) nofun
  case fRelease.ok =>
    exact h.moved hb f (framed nofun) nofun nofun rfl nofun f.errorKind fun _ => f.received (by rw [hs]; rfl)
  case fRelease.err e =>
    exact hu.moved (unsure.ctl.trans hb) fu (fu.framed (by simp [hs])) nofun nofun rfl nofun
      (heldKind_of_release (by simpa using f.errorKind)) (by simp)
  case fSettle2.ok | fSettle2.err => exact h.endTxn_settled f hs
  case aXfer.ok R => simpa only [hs] using h.endTxn_transferred f hs hr
  case aXfer.err e => simpa only [hs] using h.endTxn_failedTransfer f hs e

/-! ### Events, commands and steps -/

theorem Invariant.overrun {s : State} (h : Invariant s) : Invariant s.overrun :=
  { h with inFlight := fun hb => (h.inFlight hb).imp fun _ f =>
      ⟨f.command, f.phase, f.step, f.select, f.noEarlyError, f.errorKind, f.received⟩ }

/-- The command in flight is the one its word decodes to. -/
theorem Invariant.inFlight_of_decode {s : State} {i : Instr} (h : Invariant s) (hb : s.ctl = .busy)
    (hd : decode s.cfg.maxBurst s.cmd = .ok i) : InFlight s i := by
  obtain ⟨j, f⟩ := h.inFlight hb
  cases hd.symm.trans f.command
  exact f

/-- Every event keeps the invariant while a command is in flight. -/
theorem Invariant.land {s t : State} {i : Instr} {e : Event} (h : Invariant s) (hb : s.ctl = .busy)
    (hd : decode s.cfg.maxBurst s.cmd = .ok i) (hl : land (planOf i) e s = .next t) : Invariant t := by
  obtain ⟨_, _, _, -, rfl⟩ | ⟨_, _, -, rfl⟩ | ⟨-, rfl⟩ | ⟨_, _, -, rfl⟩ | ⟨rep, s', hp, rfl⟩ := land_cases hl
  · split
    · exact h.overrun
    · exact h
  · exact h.outside (sameBlock_hostRead _ _ _) h.device
  · exact (h.outside (t := s.abandon _) rfl h.device).blockReset
  · exact h.outside (sameBlock_devWrite _ _ _) (State.devWrite_wf h.device _ _)
  · have same := sameBlock_perform hp
    have h' : Invariant s' := h.outside same (perform_wf hp h.device)
    exact h'.advance (same.ctl.trans hb) ((h.inFlight_of_decode hb hd).outside same) (answers_of_perform hp)

/-- Every run of a legal command keeps the invariant. -/
theorem Invariant.exec {s t : State} {i : Instr} {w : Word} (h : Invariant s) (hc : s.ctl = .idle)
    (hd : decode s.cfg.maxBurst w = .ok i) (hx : exec i s = .next t) : Invariant t := by
  rw [← encode_of_decode hd] at hd
  have begun : Invariant (beginCommand i (planOf i) s) ∧ InFlightIs i (beginCommand i (planOf i) s) := by
    refine ⟨?_, inFlightIs_beginCommand _ hd⟩
    unfold beginCommand
    split
    · exact h.startCommand hc hd
    · exact h.acceptIllegal hc
  rw [exec_accepts hc] at hx
  refine (drive_keeps (P := fun u => Invariant u ∧ InFlightIs i u) ?_ hx begun).1
  rintro e es u v hb ⟨hu, cmd⟩ hl
  have hu' : Invariant { u with inputs := es } := hu.outside (sameBlock_inputs u es) hu.device
  exact ⟨hu'.land hb (cmd hb) hl, inFlightIs_land hl (cmd hb)⟩

/-- Settles O12: each thing a step can be keeps the invariant. -/
theorem stepKeepsTheInvariant : Obligations.StepKeepsTheInvariant := by
  unfold Obligations.StepKeepsTheInvariant
  intro s t h hstep
  have rest (es : List Event) : Invariant { s with inputs := es } := h.outside (sameBlock_inputs s es) h.device
  obtain ⟨-, rfl⟩ | ⟨e, es, -, hc, hidle⟩ | ⟨e, es, i, -, hb, hd, hl⟩ := step_cases hstep
  · exact h
  · obtain ⟨w, i, -, hd, hx⟩ | ⟨w, r, -, -, rfl⟩ | hby := hidle
    · exact (rest es).exec hc hd hx
    · exact (rest es).acceptIllegal hc
    · obtain ⟨_, _, _, -, rfl⟩ | ⟨_, _, -, rfl⟩ | ⟨-, rfl⟩ | ⟨_, _, -, rfl⟩ := bystander_cases hby
      · exact rest es
      · exact (rest es).outside (sameBlock_hostRead _ _ _) h.device
      · exact (rest es).blockReset
      · exact (rest es).outside (sameBlock_devWrite _ _ _) (State.devWrite_wf (rest es).device _ _)
  · exact (rest es).land hb hd hl

end Sys2Proof.Machine
end

section
/-! PROOFS. The host's accesses while a command runs: the run without them is the same run (R23, R24, R62). -/

namespace Sys2Proof.Machine

/-! ### The run without the host commutes with what the block and the outside do -/

section
variable (log : List HostObs) (s : State)

@[simp] theorem State.withoutHost_ctl : (s.withoutHost log).ctl = s.ctl := rfl
@[simp] theorem State.withoutHost_step : (s.withoutHost log).step = s.step := rfl
@[simp] theorem State.withoutHost_phase : (s.withoutHost log).phase = s.phase := rfl
@[simp] theorem State.withoutHost_firstErr : (s.withoutHost log).firstErr = s.firstErr := rfl

theorem State.withoutHost_hostRead (width : Nat) (off : BitVec 6) :
    (s.hostRead width off).withoutHost log = s.withoutHost log := rfl

theorem State.withoutHost_overrun : s.overrun.withoutHost log = s.withoutHost log := rfl

theorem State.heardWrite_withoutHost (sure : Bool) (bytes : List Byte) (rep : Reply) :
    (s.withoutHost log).heardWrite sure bytes rep = (s.heardWrite sure bytes rep).withoutHost log := by
  unfold State.heardWrite
  split
  · split <;> rfl
  · rfl

theorem State.wire_withoutHost (pr : Prim) (rep : Reply) :
    (s.withoutHost log).wire pr rep = (s.wire pr rep).withoutHost log := by
  cases pr with
  | assertCs | releaseCs => cases rep <;> rfl
  | send bytes | addrSend _ bytes => exact s.heardWrite_withoutHost log _ bytes rep
  | exchange | addrSendRecv | delayUs => rfl

theorem State.returned_withoutHost (pr : Prim) (rep : Reply) :
    (s.withoutHost log).returned pr rep = (s.returned pr rep).withoutHost log := by
  unfold State.returned
  rw [State.wire_withoutHost]
  rfl

theorem State.blockReset_withoutHost : (s.withoutHost log).blockReset = s.blockReset.withoutHost log := by
  unfold State.blockReset
  by_cases h : s.ctl = .busy ∧ s.phase = .write
  · rw [if_pos h, if_pos (by exact h)]
    rfl
  · rw [if_neg h, if_neg (by exact h)]
    rfl

theorem Plan.unsureWrite_withoutHost (p : Plan) :
    p.unsureWrite (s.withoutHost log) = (p.unsureWrite s).withoutHost log := by
  unfold Plan.unsureWrite
  simp only [State.withoutHost_phase]
  split <;> rfl

theorem planOf_prim_withoutHost (i : Instr) : (planOf i).prim (s.withoutHost log) = (planOf i).prim s := by
  cases i <;> rfl

theorem planOf_endTxn_withoutHost (i : Instr) :
    (planOf i).endTxn (s.withoutHost log) = ((planOf i).endTxn s).withoutHost log := by
  cases he : s.firstErr with
  | none =>
    rw [Plan.endTxn_of_none _ he, Plan.endTxn_of_none _ ((s.withoutHost_firstErr log).trans he)]
    cases i with
    | setf =>
      simp only [planOf, planSetf, State.withoutHost_phase]
      split <;> rfl
    | _ => rfl
  | some err =>
    rw [Plan.endTxn_of_some _ he, Plan.endTxn_of_some _ ((s.withoutHost_firstErr log).trans he)]
    cases i <;> rfl

theorem planOf_advance_withoutHost (i : Instr) (rep : Reply) :
    (planOf i).advance rep (s.withoutHost log) = ((planOf i).advance rep s).withoutHost log := by
  unfold Plan.advance
  rw [State.withoutHost_step, Plan.unsureWrite_withoutHost]
  cases s.step <;> cases rep
  case fAssert.err e =>
    exact planOf_endTxn_withoutHost log { (planOf i).unsureWrite s with firstErr := some (.chipSelect, e) } i
  case fSettle2.ok | fSettle2.err => exact planOf_endTxn_withoutHost log s i
  case aXfer.ok R => exact planOf_endTxn_withoutHost log { s with step := .aXfer, rx := R } i
  case aXfer.err e => exact planOf_endTxn_withoutHost log { s with step := .aXfer, firstErr := some (.bus, e) } i
  all_goals rfl

/-- The transport's answer does not depend on what the host reads or writes. -/
theorem answered_withoutHost {s s' : State} {reg : RegAddr} {pr : Prim} {a : Answer} {rep : Reply}
    (h : answered reg pr a s = .ok (rep, s')) :
    answered reg pr a (s.withoutHost log) = .ok (rep, s'.withoutHost log) := by
  unfold answered at h ⊢
  cases a with
  | err e =>
    simp only at h ⊢
    split at h <;> cases h
    next he => rw [if_pos (by exact he), State.returned_withoutHost]
  | okBytes R =>
    simp only at h ⊢
    split at h <;> cases h
    next hR => rw [if_pos hR, State.returned_withoutHost]
  | ok =>
    simp only at h ⊢
    split at h <;> cases h
    next hd =>
      rw [if_pos (by exact hd), State.returned_withoutHost]
      rfl
    next hd =>
      rw [if_neg (by exact hd), ← State.returned_withoutHost]
      rfl

theorem perform_withoutHost {s s' : State} {reg : RegAddr} {pr : Prim} {e : Event} {rep : Reply}
    (h : perform reg pr e s = .ok (rep, s')) :
    perform reg pr e (s.withoutHost log) = .ok (rep, s'.withoutHost log) := by
  cases e with
  | clock =>
    simp only [perform] at h ⊢
    split at h <;> cases h
    next hd => rw [if_pos hd, State.returned_withoutHost]
  | answer a =>
    simp only [perform] at h ⊢
    split at h
    · cases h
    next hd =>
      rw [if_neg hd]
      exact answered_withoutHost log h
  | hostWrite | hostRead | blockReset | device | otherMaster => cases h

end

/-! ### One event, and a whole run -/

/-- The return of the primitive in flight moves the controller. -/
theorem land_of_perform {p : Plan} {e : Event} {s s' : State} {rep : Reply}
    (h : perform p.reg (p.prim s) e s = .ok (rep, s')) : land p e s = .next (p.advance rep s') := by
  cases e with
  | answer | clock => simp only [land, h]
  | hostWrite | hostRead | blockReset | device | otherMaster => cases h

/-- An event that is no host access does the same where the host has been silent. -/
theorem land_withoutHost (log : List HostObs) {i : Instr} {e : Event} {s t : State} (he : e.isHostAccess = false)
    (h : land (planOf i) e s = .next t) : land (planOf i) e (s.withoutHost log) = .next (t.withoutHost log) := by
  obtain ⟨_, _, _, rfl, -⟩ | ⟨_, _, rfl, -⟩ | ⟨rfl, rfl⟩ | ⟨a, v, rfl, rfl⟩ | ⟨rep, s', hp, rfl⟩ := land_cases h
  · cases he
  · cases he
  · rw [← State.blockReset_withoutHost, ← planOf_prim_withoutHost log]
    rfl
  · rfl
  · rw [← planOf_prim_withoutHost log] at hp
    rw [land_of_perform (perform_withoutHost log hp), planOf_advance_withoutHost]

/-- A host access leaves a command in flight as it is. -/
theorem withoutHost_of_hostAccess (log : List HostObs) {p : Plan} {e : Event} {s t : State}
    (he : e.isHostAccess = true) (h : land p e s = .next t) :
    t.withoutHost log = s.withoutHost log ∧ t.inputs = s.inputs := by
  cases e with
  | hostWrite =>
    cases h
    split
    · exact ⟨s.withoutHost_overrun log, rfl⟩
    · exact ⟨rfl, rfl⟩
  | hostRead =>
    cases h
    exact ⟨s.withoutHost_hostRead log _ _, rfl⟩
  | answer | clock | blockReset | device | otherMaster => cases he

/-- A run takes its first event, and goes on. -/
theorem drive_next {p : Plan} {e : Event} {es : List Event} {s s' : State} (hc : s.ctl = .busy)
    (hl : land p e { s with inputs := es } = .next s') : drive p (e :: es) s = drive p es s' := by
  rw [drive_busy _ _ _ hc, hl]

/-- The run of a command through the events without the host's accesses. -/
theorem drive_withoutHost (log : List HostObs) {i : Instr} {l : List Event} {s t : State} (hl : s.inputs = l)
    (h : drive (planOf i) l s = .next t) :
    drive (planOf i) (l.filter fun e => !e.isHostAccess) (s.withoutHost log) = .next (t.withoutHost log) := by
  induction l generalizing s with
  | nil => cases h; rfl
  | cons e es ih =>
    obtain hc | hc := s.idle_or_busy
    · rw [drive_idle _ _ hc] at h
      cases h
      exact drive_idle _ _ hc
    · rw [drive_busy _ _ _ hc] at h
      split at h
      · next s' hland =>
        cases he : e.isHostAccess with
        | true =>
          obtain ⟨same, inputs⟩ := withoutHost_of_hostAccess log he hland
          have dropped : s.withoutHost log = State.withoutHost log { s with inputs := es } := by
            simp [State.withoutHost, hl, he]
          rw [List.filter_cons_of_neg (by simp [he]), dropped, ← same]
          exact ih inputs h
        | false =>
          rw [List.filter_cons_of_pos (by simp [he]), drive_next (by exact hc) (land_withoutHost log he hland)]
          exact ih (land_inputs hland).1 h
      · cases h
      · cases h

theorem beginCommand_withoutHost (i : Instr) (p : Plan) (s : State) :
    beginCommand i p { s with inputs := s.inputs.filter fun e => !e.isHostAccess } =
      (beginCommand i p s).withoutHost s.hostLog := by
  unfold beginCommand
  split <;> rfl

/-- Settles O16: acceptance clears OVR, and from there on the two runs go side by side. -/
theorem hostAccessesDoNotDisturbACommand : Obligations.HostAccessesDoNotDisturbACommand := by
  unfold Obligations.HostAccessesDoNotDisturbACommand
  intro s t i hc h
  rw [exec_accepts hc] at h
  rw [exec_accepts (by exact hc), beginCommand_withoutHost]
  exact drive_withoutHost s.hostLog (beginCommand_inputs _ _ _) h

end Sys2Proof.Machine
end

section
/-! PROOFS. Host accesses that R56 leaves undefined: they do nothing, idle or in flight. -/

namespace Sys2Proof.Machine

theorem definedAccess_eq_false {width : Nat} {off : BitVec 6} (h : ¬(width = 32 ∧ off.toNat % 4 = 0)) :
    definedAccess width off = false := by
  simpa [definedAccess] using h

/-- A host write that does not reach CMD is ignored, idle or in flight (R23, R56). -/
theorem step_hostWrite_not_cmd {s : State} {width : Nat} {off : BitVec 6} {w : Word} {es : List Event}
    (hd : s.ctl = .busy → ∃ i, decode s.cfg.maxBurst s.cmd = .ok i) (hw : isCmdWrite width off = false)
    (hi : s.inputs = .hostWrite width off w :: es) : step s = .next { s with inputs := es } := by
  obtain hc | hc := s.idle_or_busy
  · exact step_bystander hc hi (by rintro _ _ _ ⟨⟩; exact hw)
  · obtain ⟨i, hd⟩ := hd hc
    rw [step_lands hc hi hd]
    simp [land, hw]

/-- An access that is not a defined one returns 0 if it is a read (R56). -/
theorem State.hostRead_undefined {width : Nat} {off : BitVec 6} (h : definedAccess width off = false) (s : State) :
    s.hostRead width off = { s with hostLog := s.hostLog ++ [⟨width, off, 0⟩] } := by
  simp [State.hostRead, State.hostValue, h]

/-- Settles O46: an undefined access is no CMD write, and its read returns 0. -/
theorem undefinedHostAccessesDoNothing : Obligations.UndefinedHostAccessesDoNothing := by
  unfold Obligations.UndefinedHostAccessesDoNothing
  intro s width off w es hd hu
  have undefined : definedAccess width off = false := definedAccess_eq_false hu
  refine ⟨fun hi => step_hostWrite_not_cmd hd (by simp [isCmdWrite, undefined]) hi, fun hi => ?_⟩
  rw [step_hostRead hd hi, State.hostRead_undefined undefined]

end Sys2Proof.Machine
end

section
/-! PROOFS. What a command leaves of the reference device: every event that is not the device's own changes at most
the register the command names, and only where the command writes (R51, R54, R55, R241). -/

namespace Sys2Proof.Machine

/-! ### One write at most -/

/-- What a command may change of the reference device: nothing unless it has a write phase, and then only the register
it names; the registers stay in canonical form. -/
structure DeviceFrame (i : Instr) (s t : State) : Prop where
  canonical : s.dev.wf → t.dev.wf
  kept : hasPhase i .write = false → t.dev = s.dev
  others : s.dev.wf → ∀ a, a ≠ i.reg → t.devRead a = s.devRead a

theorem DeviceFrame.of_eq {i : Instr} {s t : State} (h : t.dev = s.dev) : DeviceFrame i s t :=
  ⟨fun hw => h ▸ hw, fun _ => h, fun _ _ _ => by rw [State.devRead, h, State.devRead]⟩

theorem DeviceFrame.trans {i : Instr} {s t u : State} (h : DeviceFrame i s t) (h' : DeviceFrame i t u) :
    DeviceFrame i s u :=
  ⟨fun hw => h'.canonical (h.canonical hw), fun hp => (h'.kept hp).trans (h.kept hp),
    fun hw a ha => (h'.others (h.canonical hw) a ha).trans (h.others hw a ha)⟩

/-- A write to the register the command names. -/
theorem DeviceFrame.of_write {i : Instr} {s t : State} {v : Byte} (hp : hasPhase i .write = true)
    (h : t.dev = (s.devWrite i.reg v).dev) : DeviceFrame i s t where
  canonical hw := h ▸ State.devWrite_wf hw _ _
  kept hn := by simp [hp] at hn
  others hw a ha := by rw [State.devRead, h, ← State.devRead, State.devRead_devWrite hw, if_neg ha]

/-! ### The return of a primitive -/

theorem answered_returned {reg : RegAddr} {pr : Prim} {a : Answer} {s s' : State} {rep : Reply}
    (h : answered reg pr a s = .ok (rep, s')) : ∃ n, s' = (s.drawn n).returned pr rep := by
  unfold answered at h
  cases a with
  | err | okBytes =>
    simp only at h
    split at h <;> cases h
    exact ⟨0, rfl⟩
  | ok =>
    simp only at h
    split at h <;> cases h
    · exact ⟨0, rfl⟩
    · exact ⟨pr.expects, rfl⟩

/-- A primitive's return is heard outside the block, where free bytes may have been drawn for the answer. -/
theorem perform_returned {reg : RegAddr} {pr : Prim} {e : Event} {s s' : State} {rep : Reply}
    (h : perform reg pr e s = .ok (rep, s')) : ∃ n, s' = (s.drawn n).returned pr rep := by
  cases e with
  | clock =>
    simp only [perform] at h
    split at h <;> cases h
    exact ⟨0, rfl⟩
  | answer a =>
    simp only [perform] at h
    split at h
    · cases h
    · exact answered_returned h
  | hostWrite | hostRead | blockReset | device | otherMaster => cases h

@[simp] theorem writeAddrByte_setWidth (reg : RegAddr) : (writeAddrByte reg).setWidth 7 = reg := by
  simp [writeAddrByte]

theorem State.heardWrite_dev (sure : Bool) (a v : Byte) (rep : Reply) (s : State) :
    ∃ w, (s.heardWrite sure [a, v] rep).dev = (s.devWrite (a.setWidth 7) w).dev := by
  simp only [State.heardWrite]
  split <;> exact ⟨_, rfl⟩

/-- The device hears the header of a write transaction as a write to the register the command names. -/
theorem Plan.heardWrite_header (p : Plan) (sure : Bool) (rep : Reply) (s u : State) :
    (u.heardWrite sure (p.header s) rep).dev = u.dev ∨
      s.phase = .write ∧ ∃ v, (u.heardWrite sure (p.header s) rep).dev = (u.devWrite p.reg v).dev := by
  unfold Plan.header
  cases s.phase with
  | read => exact .inl rfl
  | write =>
    obtain ⟨w, hw⟩ := u.heardWrite_dev sure (writeAddrByte p.reg) (p.payload s) rep
    exact .inr ⟨rfl, w, by simpa using hw⟩

/-- The device hears nothing of a primitive, or a write to the register the command names in its write phase. -/
theorem Plan.wire_dev (p : Plan) (rep : Reply) (s u : State) :
    (u.wire (p.prim s) rep).dev = u.dev ∨
      s.phase = .write ∧ ∃ v, (u.wire (p.prim s) rep).dev = (u.devWrite p.reg v).dev := by
  unfold Plan.prim
  cases s.step with
  | fAssert | fRelease => cases rep <;> exact .inl rfl
  | fSettle1 | fSettle2 | fExch => exact .inl rfl
  | fSend => exact p.heardWrite_header _ rep s u
  | aXfer =>
    cases hp : s.phase with
    | read => exact .inl rfl
    | write =>
      obtain h | ⟨-, h⟩ := p.heardWrite_header true rep s u
      · exact .inl h
      · exact .inr ⟨rfl, h⟩

/-! ### The controller's move -/

@[simp] theorem planOf_reg (i : Instr) : (planOf i).reg = i.reg := by cases i <;> rfl

theorem Plan.unsureWrite_dev (p : Plan) (s : State) :
    (p.unsureWrite s).dev = s.dev ∨ s.phase = .write ∧ ∃ v, (p.unsureWrite s).dev = (s.devWrite p.reg v).dev := by
  unfold Plan.unsureWrite
  cases s.phase with
  | read => exact .inl rfl
  | write => exact .inr ⟨rfl, _, rfl⟩

/-- The controller's move leaves the device alone, but for a failed assert or release of a write transaction. -/
theorem planOf_advance_dev (i : Instr) (rep : Reply) (s : State) :
    ((planOf i).advance rep s).dev = s.dev ∨ ((planOf i).advance rep s).dev = ((planOf i).unsureWrite s).dev := by
  have ended (u : State) : ((planOf i).endTxn u).dev = u.dev := (planOf_endTxn_outside i u).dev
  unfold Plan.advance
  cases s.step <;> cases rep
  case fAssert.err => exact .inr (ended _)
  case fRelease.err => exact .inr rfl
  case fSettle2.ok | fSettle2.err | aXfer.ok | aXfer.err => exact .inl (ended _)
  all_goals exact .inl rfl

/-- The controller's move leaves the phase, or begins another that the command has. -/
theorem planOf_advance_phase {i : Instr} {s : State} (rep : Reply) (h : hasPhase i s.phase = true) :
    hasPhase i ((planOf i).advance rep s).phase = true := by
  have ended (u : State) (hu : u.phase = s.phase) : hasPhase i ((planOf i).endTxn u).phase = true := by
    obtain ⟨hp, -⟩ | ⟨hw, he⟩ := planOf_endTxn_txn i u
    · rwa [hp, hu]
    · rwa [he, State.toWritePhase_phase]
  unfold Plan.advance
  cases s.step <;> cases rep
  case fAssert.err => exact ended _ (by simp)
  case fRelease.err => simpa using h
  case fSettle2.ok | fSettle2.err | aXfer.ok | aXfer.err => exact ended _ rfl
  all_goals exact h

/-! ### One event, and a whole run -/

theorem regField_encode (i : Instr) : regField (encode i) = i.reg := by
  cases i <;> exact Laws.regField_assembleWord ..

/-- The phase is one of the command's, and `cmd` names the command's register. -/
structure Named (i : Instr) (s : State) : Prop where
  phase : hasPhase i s.phase = true
  reg : regField s.cmd = i.reg

theorem Named.deviceFrame {i : Instr} {s t : State} (h : Named i s)
    (hd : t.dev = s.dev ∨ s.phase = .write ∧ ∃ v, t.dev = (s.devWrite i.reg v).dev) : DeviceFrame i s t := by
  obtain hd | ⟨hp, v, hd⟩ := hd
  · exact .of_eq hd
  · exact .of_write (hp ▸ h.phase) hd

/-- Block reset leaves a free value in the register whose write was in flight (R241). -/
theorem Named.deviceFrame_blockReset {i : Instr} {s : State} (h : Named i s) : DeviceFrame i s s.blockReset := by
  refine h.deviceFrame ?_
  unfold State.blockReset
  split
  · next hw =>
    rw [h.reg]
    exact .inr ⟨hw.2, _, rfl⟩
  · exact .inl rfl

/-- The return of a primitive, and the controller's move after it. -/
theorem Named.deviceFrame_advance {i : Instr} {e : Event} {s s' : State} {rep : Reply} (h : Named i s)
    (hp : perform (planOf i).reg ((planOf i).prim s) e s = .ok (rep, s')) :
    Named i ((planOf i).advance rep s') ∧ DeviceFrame i s ((planOf i).advance rep s') := by
  have h' : Named i s' := by
    rw [sameBlock_perform hp]
    exact ⟨h.phase, h.reg⟩
  have heard : DeviceFrame i s s' := by
    obtain ⟨n, rfl⟩ := perform_returned hp
    exact h.deviceFrame (by simpa [State.returned] using (planOf i).wire_dev rep s (s.drawn n))
  have moved : DeviceFrame i s' ((planOf i).advance rep s') := by
    refine h'.deviceFrame ?_
    obtain hd | hd := planOf_advance_dev i rep s' <;> rw [hd]
    · exact .inl rfl
    · simpa using (planOf i).unsureWrite_dev s'
  exact ⟨⟨planOf_advance_phase rep h'.phase, by rw [planOf_advance_cmd, h'.reg]⟩, heard.trans moved⟩

/-- No event but the device's own changes another register than the one the command names. -/
theorem Named.land {i : Instr} {e : Event} {s t : State} (h : Named i s) (he : e.isDevice = false)
    (hl : land (planOf i) e s = .next t) : (t.ctl = .busy → Named i t) ∧ DeviceFrame i s t := by
  obtain ⟨_, _, _, _, rfl⟩ | ⟨_, _, _, rfl⟩ | ⟨-, rfl⟩ | ⟨_, _, rfl, -⟩ | ⟨rep, s', hp, rfl⟩ := land_cases hl
  · split
    · exact ⟨fun _ => ⟨h.phase, h.reg⟩, .of_eq rfl⟩
    · exact ⟨fun _ => h, .of_eq rfl⟩
  · exact ⟨fun _ => ⟨h.phase, h.reg⟩, .of_eq rfl⟩
  · have h' : Named i (s.abandon ((planOf i).prim s)) := ⟨h.phase, h.reg⟩
    have frame := h'.deviceFrame_blockReset
    exact ⟨by simp, frame.canonical, frame.kept, frame.others⟩
  · cases he
  · exact ⟨fun _ => (h.deviceFrame_advance hp).1, (h.deviceFrame_advance hp).2⟩

/-- What every event of a list keeps while a command is in flight, the run through that list keeps. -/
theorem drive_keeps_of_mem_busy {p : Plan} {P : State → Prop} {l : List Event}
    (hP : ∀ e ∈ l, ∀ es s t, s.ctl = .busy → P s → land p e { s with inputs := es } = .next t → P t)
    {s t : State} (h : drive p l s = .next t) (hs : P s) : P t := by
  induction l generalizing s with
  | nil => cases h; exact hs
  | cons e es ih =>
    obtain hc | hc := s.idle_or_busy
    · rw [drive_idle _ _ hc] at h
      cases h
      exact hs
    · rw [drive_busy _ _ _ hc] at h
      split at h
      · next s' hl =>
        exact ih (fun e he => hP e (List.mem_cons_of_mem _ he)) h (hP e List.mem_cons_self es s s' hc hs hl)
      · cases h
      · cases h

/-- What a command leaves of the reference device, however it ends. -/
theorem exec_deviceFrame {i : Instr} {s t : State} (he : ∀ e ∈ s.inputs, e.isDevice = false)
    (h : exec i s = .next t) : DeviceFrame i s t := by
  obtain hc | hc := s.idle_or_busy
  · cases hw : i.wf s.cfg.maxBurst with
    | false =>
      rw [exec_illformed hc hw] at h
      cases h
      exact .of_eq rfl
    | true =>
      rw [exec_idle hc hw] at h
      have start : Named i (s.clearRecord.startCommand (encode i) (planOf i).first) :=
        ⟨hasPhase_first i, regField_encode i⟩
      refine (drive_keeps_of_mem_busy (P := fun u => (u.ctl = .busy → Named i u) ∧ DeviceFrame i s u) ?_ h
        ⟨fun _ => start, .of_eq rfl⟩).2
      rintro e hmem es u v hb ⟨hu, frame⟩ hl
      have hu' : Named i { u with inputs := es } := ⟨(hu hb).phase, (hu hb).reg⟩
      obtain ⟨hv, event⟩ := hu'.land (he e hmem) hl
      exact ⟨hv, frame.trans ⟨event.canonical, event.kept, event.others⟩⟩
  · rw [exec_busy i hc] at h
    cases h
    exact .of_eq rfl

/-- Settles O43: the frame of the run, read off for each command. -/
theorem deviceRegisterFrame : Obligations.DeviceRegisterFrame := by
  unfold Obligations.DeviceRegisterFrame
  intro s t i hdev he h
  obtain ⟨-, kept, others⟩ := exec_deviceFrame he h
  cases i with
  | write => exact others hdev
  | read => exact kept rfl
  | reads => exact kept rfl
  | setf => exact others hdev

end Sys2Proof.Machine
end

section
/-! PROOFS. A transaction in which every primitive answers Ok, run at once: the events it takes, the state it ends in,
and its trace, on either transport (R105 to R113). -/

namespace Sys2Proof.Machine

/-! ### The return of one primitive -/

/-- An Ok to a primitive that receives nothing. -/
theorem answered_ok_empty (reg : RegAddr) {pr : Prim} (h : pr.expects = 0) (s : State) :
    answered reg pr .ok s = .ok (.ok [], s.returned pr (.ok [])) := by
  unfold answered
  rw [h]
  exact ite_self _

/-- An answer that brings the bytes of a read (R52, R54). -/
theorem answered_brings {s : State} {reg : RegAddr} {pr : Prim} {x : Answer} {R : List Byte}
    (h : brings s reg pr.expects x R) : answered reg pr x s = .ok (.ok R, s.returned pr (.ok R)) := by
  obtain ⟨rfl, hR⟩ | ⟨rfl, heard, rfl⟩ := h
  · exact if_pos hR
  · exact if_pos heard

theorem Plan.prim_fSend_write {p : Plan} {s : State} {v : Byte} (hs : s.step = .fSend) (hp : s.phase = .write)
    (hv : p.payload s = v) : p.prim s = .send [writeAddrByte p.reg, v] := by
  simp only [Plan.prim, Plan.header, hs, hp, hv]

theorem Plan.prim_aXfer_write {p : Plan} {s : State} {v : Byte} (hs : s.step = .aXfer) (hp : s.phase = .write)
    (hv : p.payload s = v) : p.prim s = .addrSend s.cfg.devAddr [writeAddrByte p.reg, v] := by
  simp only [Plan.prim, Plan.header, hs, hp, hv]

section
variable {p : Plan} {s : State} {es : List Event} {pr : Prim}

theorem drive_answer {a : Answer} {rep : Reply} (hc : s.ctl = .busy) (hp : p.prim { s with inputs := es } = pr)
    (hd : pr.isDelay = false)
    (ha : answered p.reg pr a { s with inputs := es } = .ok (rep, { s with inputs := es }.returned pr rep)) :
    drive p (.answer a :: es) s = drive p es (p.advance rep ({ s with inputs := es }.returned pr rep)) := by
  subst hp
  exact drive_next hc (land_of_perform (by simp only [perform, hd, ha]; rfl))

theorem drive_ok (hc : s.ctl = .busy) (hp : p.prim { s with inputs := es } = pr) (hd : pr.isDelay = false)
    (he : pr.expects = 0) :
    drive p (.answer .ok :: es) s = drive p es (p.advance (.ok []) ({ s with inputs := es }.returned pr (.ok []))) :=
  drive_answer hc hp hd (answered_ok_empty _ he _)

theorem drive_clock (hc : s.ctl = .busy) (hp : p.prim { s with inputs := es } = pr) (hd : pr.isDelay = true) :
    drive p (.clock :: es) s = drive p es (p.advance (.ok []) ({ s with inputs := es }.returned pr (.ok []))) := by
  subst hp
  exact drive_next hc (land_of_perform (by simp only [perform, hd]; rfl))

/-! ### The steps of a FRAMED transaction (R105, R106) -/

theorem drive_fAssert (hc : s.ctl = .busy) (hs : s.step = .fAssert) :
    drive p (.answer .ok :: es) s =
      drive p es { s with
        inputs := es, csAsserted := true, step := .fSettle1, trace := s.trace ++ [⟨.assertCs, some (.ok [])⟩] } := by
  rw [drive_ok (pr := .assertCs) hc (by simp only [Plan.prim, hs]) rfl rfl]
  simp only [Plan.advance, State.returned, State.wire, State.record, hs]

theorem drive_fSettle1 (hc : s.ctl = .busy) (hs : s.step = .fSettle1) :
    drive p (.clock :: es) s =
      drive p es { s with
        inputs := es, step := .fSend, trace := s.trace ++ [⟨.delayUs s.cfg.tSettleUs, some (.ok [])⟩] } := by
  rw [drive_clock (pr := .delayUs s.cfg.tSettleUs) hc (by simp only [Plan.prim, hs]) rfl]
  simp only [Plan.advance, State.returned, State.wire, State.record, hs]

theorem drive_fSend_read (hc : s.ctl = .busy) (hs : s.step = .fSend) (hp : s.phase = .read) :
    drive p (.answer .ok :: es) s =
      drive p es { s with
        inputs := es, step := .fExch, trace := s.trace ++ [⟨.send [readAddrByte p.reg], some (.ok [])⟩] } := by
  rw [drive_ok (pr := .send [readAddrByte p.reg]) hc (by simp only [Plan.prim, Plan.header, hs, hp]) rfl rfl]
  simp only [Plan.advance, State.returned, State.wire, State.heardWrite, State.record, hs, hp]

/-- The device hears the write, where the chip-select line is known; where it is not, its register takes a free value
(R251). -/
theorem drive_fSend_write (hc : s.ctl = .busy) (hs : s.step = .fSend) (hp : s.phase = .write) {v : Byte}
    (hv : p.payload { s with inputs := es } = v) :
    drive p (.answer .ok :: es) s =
      drive p es { s with
        dev := (s.heardWrite s.lineKnown [writeAddrByte p.reg, v] (.ok [])).dev
        freeCtr := (s.heardWrite s.lineKnown [writeAddrByte p.reg, v] (.ok [])).freeCtr
        inputs := es, step := .fRelease
        trace := s.trace ++ [⟨.send [writeAddrByte p.reg, v], some (.ok [])⟩] } := by
  rw [drive_ok (es := es) hc (Plan.prim_fSend_write hs hp hv) rfl rfl]
  cases hl : s.lineKnown <;>
    simp [Plan.advance, State.returned, State.wire, State.heardWrite, State.record, State.devUnspecified,
      State.devWrite, State.drawn, hs, hp, hl]

theorem drive_fExch {x : Answer} {R : List Byte} (hc : s.ctl = .busy) (hs : s.step = .fExch)
    (hR : brings s p.reg p.count x R) :
    drive p (.answer x :: es) s =
      drive p es { s with
        inputs := es, step := .fRelease, rx := R
        trace := s.trace ++ [⟨.exchange (List.replicate p.count 0), some (.ok R)⟩] } := by
  have expects : (Prim.exchange (List.replicate p.count 0)).expects = p.count := List.length_replicate
  rw [drive_answer hc (by simp only [Plan.prim, hs]) rfl (answered_brings (expects.symm ▸ hR))]
  simp only [Plan.advance, State.returned, State.wire, State.record, hs]

theorem drive_fRelease (hc : s.ctl = .busy) (hs : s.step = .fRelease) :
    drive p (.answer .ok :: es) s =
      drive p es { s with
        inputs := es, csAsserted := false, lineKnown := true, step := .fSettle2
        trace := s.trace ++ [⟨.releaseCs, some (.ok [])⟩] } := by
  rw [drive_ok (pr := .releaseCs) hc (by simp only [Plan.prim, hs]) rfl rfl]
  simp only [Plan.advance, State.returned, State.wire, State.record, hs]

theorem drive_fSettle2 (hc : s.ctl = .busy) (hs : s.step = .fSettle2) :
    drive p (.clock :: es) s =
      drive p es (p.endTxn { s with
        inputs := es, trace := s.trace ++ [⟨.delayUs s.cfg.tSettleUs, some (.ok [])⟩] }) := by
  rw [drive_clock (pr := .delayUs s.cfg.tSettleUs) hc (by simp only [Plan.prim, hs]) rfl]
  simp only [Plan.advance, State.returned, State.wire, State.record, hs]

/-! ### The one step of an ADDRESSED transaction (R110) -/

theorem drive_aXfer_read {x : Answer} {R : List Byte} (hc : s.ctl = .busy) (hs : s.step = .aXfer)
    (hp : s.phase = .read) (hR : brings s p.reg p.count x R) :
    drive p (.answer x :: es) s =
      drive p es (p.endTxn { s with
        inputs := es, rx := R
        trace := s.trace ++ [⟨.addrSendRecv s.cfg.devAddr [readAddrByte p.reg] p.count, some (.ok R)⟩] }) := by
  rw [drive_answer (pr := .addrSendRecv s.cfg.devAddr [readAddrByte p.reg] p.count) hc
    (by simp only [Plan.prim, Plan.header, hs, hp]) rfl (answered_brings (s := { s with inputs := es }) hR)]
  simp only [Plan.advance, State.returned, State.wire, State.record, hs]

theorem drive_aXfer_write (hc : s.ctl = .busy) (hs : s.step = .aXfer) (hp : s.phase = .write) {v : Byte}
    (hv : p.payload { s with inputs := es } = v) :
    drive p (.answer .ok :: es) s =
      drive p es (p.endTxn { s.devWrite p.reg v with
        inputs := es, rx := []
        trace := s.trace ++ [⟨.addrSend s.cfg.devAddr [writeAddrByte p.reg, v], some (.ok [])⟩] }) := by
  rw [drive_ok (es := es) hc (Plan.prim_aXfer_write hs hp hv) rfl rfl]
  simp only [Plan.advance, State.returned, State.wire, State.heardWrite, State.record, State.devWrite, hs,
    writeAddrByte_setWidth]

end

/-! ### A whole transaction -/

/-- The returns of a read transaction in which every primitive answers Ok, with the answer `x` to the one that
receives. -/
def readReturns (t : Transport) (x : Answer) : List Event :=
  match t with
  | .framed => [.answer .ok, .clock, .answer .ok, .answer x, .answer .ok, .clock]
  | .addressed => [.answer x]

theorem okTxn_read (t : Transport) : okTxn t .read = readReturns t .ok := by cases t <;> rfl

/-- The trace of a read transaction of `n` bytes that brings `R` (R109, R112). -/
def readTrace (c : Config) (reg : RegAddr) (n : Nat) (R : List Byte) : List PhyEvent :=
  match c.transport with
  | .framed =>
    [⟨.assertCs, some (.ok [])⟩, ⟨.delayUs c.tSettleUs, some (.ok [])⟩, ⟨.send [readAddrByte reg], some (.ok [])⟩,
      ⟨.exchange (List.replicate n 0), some (.ok R)⟩, ⟨.releaseCs, some (.ok [])⟩,
      ⟨.delayUs c.tSettleUs, some (.ok [])⟩]
  | .addressed => [⟨.addrSendRecv c.devAddr [readAddrByte reg] n, some (.ok R)⟩]

/-- The trace of a write transaction of `v` (R108, R111). -/
def writeTrace (c : Config) (reg : RegAddr) (v : Byte) : List PhyEvent :=
  match c.transport with
  | .framed =>
    [⟨.assertCs, some (.ok [])⟩, ⟨.delayUs c.tSettleUs, some (.ok [])⟩, ⟨.send [writeAddrByte reg, v], some (.ok [])⟩,
      ⟨.releaseCs, some (.ok [])⟩, ⟨.delayUs c.tSettleUs, some (.ok [])⟩]
  | .addressed => [⟨.addrSend c.devAddr [writeAddrByte reg, v], some (.ok [])⟩]

/-- The state at the end of a transaction in which every primitive answered Ok: the last step of the transport in use,
no error seen, `R` received; a FRAMED release has made the line known (R36). -/
def State.afterTxn (ph : Phase) (R : List Byte) (tr : List PhyEvent) (s : State) : State :=
  { s with
    phase := ph
    step := if s.cfg.transport = .framed then .fSettle2 else .aXfer
    firstErr := none
    rx := R
    csAsserted := s.csAsserted && s.cfg.transport = .addressed
    lineKnown := s.lineKnown || s.cfg.transport = .framed
    trace := s.trace ++ tr }

section
variable (ph : Phase) (R : List Byte) (tr : List PhyEvent) (s : State)

@[simp] theorem State.afterTxn_cfg : (s.afterTxn ph R tr).cfg = s.cfg := rfl
@[simp] theorem State.afterTxn_ctl : (s.afterTxn ph R tr).ctl = s.ctl := rfl
@[simp] theorem State.afterTxn_phase : (s.afterTxn ph R tr).phase = ph := rfl
@[simp] theorem State.afterTxn_rx : (s.afterTxn ph R tr).rx = R := rfl
@[simp] theorem State.afterTxn_rmwLatch : (s.afterTxn ph R tr).rmwLatch = s.rmwLatch := rfl
@[simp] theorem State.afterTxn_csAsserted :
    (s.afterTxn ph R tr).csAsserted = (s.csAsserted && s.cfg.transport = .addressed) := rfl
@[simp] theorem State.afterTxn_status : (s.afterTxn ph R tr).status = s.status := rfl
@[simp] theorem State.afterTxn_nativeErr : (s.afterTxn ph R tr).nativeErr = s.nativeErr := rfl
@[simp] theorem State.afterTxn_rbuf : (s.afterTxn ph R tr).rbuf = s.rbuf := rfl
@[simp] theorem State.afterTxn_dev : (s.afterTxn ph R tr).dev = s.dev := rfl
@[simp] theorem State.afterTxn_lineKnown :
    (s.afterTxn ph R tr).lineKnown = (s.lineKnown || s.cfg.transport = .framed) := rfl
@[simp] theorem State.afterTxn_inputs : (s.afterTxn ph R tr).inputs = s.inputs := rfl
@[simp] theorem State.afterTxn_trace : (s.afterTxn ph R tr).trace = s.trace ++ tr := rfl
@[simp] theorem State.afterTxn_hostLog : (s.afterTxn ph R tr).hostLog = s.hostLog := rfl

/-- The release of a FRAMED transaction has made the line known, so the device hears the next one (R36, R251). -/
@[simp] theorem State.afterTxn_deviceHeard : (s.afterTxn ph R tr).deviceHeard = true := by
  cases h : s.cfg.transport <;> simp [State.deviceHeard, h]

end

section
variable {p : Plan} {s : State} (es : List Event)

/-- A read transaction in which every primitive answers Ok, on either transport. -/
theorem drive_readTxn {x : Answer} {R : List Byte} (hc : s.ctl = .busy) (hR : brings s p.reg p.count x R) :
    drive p (readReturns s.cfg.transport x ++ es) (State.startTxn .read s) =
      drive p es (p.onOk (State.afterTxn .read R (readTrace s.cfg p.reg p.count R) { s with inputs := es })) := by
  cases ht : s.cfg.transport with
  | framed =>
    simp only [readReturns, List.cons_append, List.nil_append]
    rw [drive_fAssert (by exact hc) (by simp [State.startTxn_step, ht]), drive_fSettle1 (by exact hc) rfl,
      drive_fSend_read (by exact hc) rfl rfl, drive_fExch (by exact hc) rfl (by exact hR),
      drive_fRelease (by exact hc) rfl, drive_fSettle2 (by exact hc) rfl, Plan.endTxn_of_none _ (by rfl)]
    simp [State.afterTxn, readTrace, ht]
  | addressed =>
    simp only [readReturns, List.cons_append, List.nil_append]
    rw [drive_aXfer_read (by exact hc) (by simp [State.startTxn_step, ht]) rfl (by exact hR),
      Plan.endTxn_of_none _ (by rfl)]
    simp [State.afterTxn, readTrace, ht, State.startTxn_step]

/-- A write transaction in which every primitive answers Ok, on either transport. -/
theorem drive_writeTxn {v : Byte} (hc : s.ctl = .busy) (hv : ∀ u : State, u.rmwLatch = s.rmwLatch → p.payload u = v) :
    drive p (okTxn s.cfg.transport .write ++ es) (State.startTxn .write s) =
      drive p es (p.onOk (State.afterTxn .write [] (writeTrace s.cfg p.reg v)
        (State.heardWrite s.deviceHeard [writeAddrByte p.reg, v] (.ok []) { s with inputs := es }))) := by
  cases ht : s.cfg.transport with
  | framed =>
    simp only [okTxn, List.cons_append, List.nil_append]
    rw [drive_fAssert (by exact hc) (by simp [State.startTxn_step, ht]), drive_fSettle1 (by exact hc) rfl,
      drive_fSend_write (by exact hc) rfl rfl (by exact hv _ rfl), drive_fRelease (by exact hc) rfl,
      drive_fSettle2 (by exact hc) rfl, Plan.endTxn_of_none _ (by rfl)]
    cases hl : s.lineKnown <;>
      simp [State.afterTxn, writeTrace, State.deviceHeard, State.heardWrite, State.devUnspecified, State.devWrite,
        State.drawn, ht, hl]
  | addressed =>
    simp only [okTxn, List.cons_append, List.nil_append]
    rw [drive_aXfer_write (by exact hc) (by simp [State.startTxn_step, ht]) rfl (by exact hv _ rfl),
      Plan.endTxn_of_none _ (by rfl)]
    simp [State.afterTxn, writeTrace, State.deviceHeard, State.heardWrite, State.devWrite, State.startTxn_step, ht]

end

end Sys2Proof.Machine
end

section
/-! PROOFS. SETF with every primitive Ok, and a change by the device between its two transactions (R64, R150). -/

namespace Sys2Proof.Machine

theorem startCommand_eq_startTxn (i : Instr) (ph : Phase) (s : State) :
    s.clearRecord.startCommand (encode i) ph = State.startTxn ph (accepted i s) := rfl

/-- A command that completes leaves the flags of R214, whatever its transactions did with the rest of the block. -/
theorem completed_complete {s u : State} {kind : ErrKind} {native : Nat}
    (status : u.status = { s.status.cleared with busy := true }) (select : u.csAsserted = false) (cfg : u.cfg = s.cfg)
    (hostLog : u.hostLog = s.hostLog) : Completed s (u.complete kind native) kind native u.inputs where
  ctl := rfl
  status := by rw [State.complete_status, status]; rfl
  nativeErr := by rw [State.complete_nativeErr, cfg]
  select := select
  cfg := cfg
  inputs := rfl
  hostLog := hostLog

/-- A burst of one byte is the register itself (R54). -/
theorem State.devBurst_one (s : State) (reg : RegAddr) : s.devBurst reg 1 = [s.devRead reg] := by
  simp [State.devBurst, burstAddr]

/-- The device changes a register while a command is in flight. -/
theorem drive_device {p : Plan} {s : State} {es : List Event} (a : RegAddr) (y : Byte) (hc : s.ctl = .busy) :
    drive p (.device a y :: es) s = drive p es ({ s with inputs := es }.devWrite a y) :=
  drive_next hc rfl

@[simp] theorem State.devWrite_deviceHeard (s : State) (a : RegAddr) (v : Byte) :
    (s.devWrite a v).deviceHeard = s.deviceHeard := rfl

/-- The state in which SETF's write transaction begins: the byte read is in the latch. -/
def State.setfRead (i : Instr) (b : Byte) (es : List Event) (s : State) : State :=
  { State.afterTxn .read [b] (readTrace s.cfg i.reg 1 [b]) (accepted i s) with rmwLatch := b, inputs := es }

/-- The release of the read transaction has made the line known, so the device hears the write (R36, R251). -/
@[simp] theorem State.setfRead_deviceHeard (i : Instr) (b : Byte) (es : List Event) (s : State) :
    (s.setfRead i b es).deviceHeard = true :=
  State.afterTxn_deviceHeard .read [b] (readTrace s.cfg i.reg 1 [b]) (accepted i s)

section
variable {s : State} {reg : RegAddr} {off w : Nat} {v : Byte} {es : List Event}

/-- SETF through its read transaction. -/
theorem exec_setf_read {x : Answer} {b : Byte} (hc : s.ctl = .idle) (h1 : 1 ≤ w) (h8 : off + w ≤ 8)
    (hb : brings s reg 1 x [b]) (hi : s.inputs = readReturns s.cfg.transport x ++ es) :
    exec (.setf reg off w v) s =
      drive (planSetf reg off w v) es (State.startTxn .write (s.setfRead (.setf reg off w v) b es)) := by
  have hw : (Instr.setf reg off w v).wf s.cfg.maxBurst = true := by simp [Instr.wf, h1, h8]
  rw [exec_idle hc hw, startCommand_eq_startTxn, hi]
  exact drive_readTxn (s := accepted (.setf reg off w v) s) es rfl hb

/-- SETF through its write transaction, which sends the merge of the latch. -/
theorem drive_setf_write {t : Transport} (hc : s.ctl = .busy) (ht : s.cfg.transport = t) (hd : s.deviceHeard = true) :
    drive (planSetf reg off w v) (okTxn t .write ++ es) (State.startTxn .write s) =
      .next (State.complete .none 0 (State.afterTxn .write [] (writeTrace s.cfg reg (merge s.rmwLatch off w v))
        ({ s with inputs := es }.devWrite reg (merge s.rmwLatch off w v)))) := by
  have hv : ∀ u : State, u.rmwLatch = s.rmwLatch → (planSetf reg off w v).payload u = merge s.rmwLatch off w v :=
    fun u hu => by simp only [planSetf, hu]
  rw [← ht, drive_writeTxn es hc hv, hd]
  simp only [State.heardWrite, writeAddrByte_setWidth]
  exact drive_idle _ _ rfl

/-- SETF through its read transaction, and a change of the register by the device right after it. -/
theorem exec_setf_read_device {y : Byte} (hc : s.ctl = .idle) (h1 : 1 ≤ w) (h8 : off + w ≤ 8)
    (heard : s.deviceHeard = true) (hi : s.inputs = okTxn s.cfg.transport .read ++ .device reg y :: es) :
    exec (.setf reg off w v) s =
      drive (planSetf reg off w v) es
        (State.startTxn .write ((s.setfRead (.setf reg off w v) (s.devRead reg) es).devWrite reg y)) := by
  have hb : brings s reg 1 .ok [s.devRead reg] := .inr ⟨rfl, heard, (s.devBurst_one reg).symm⟩
  rw [exec_setf_read hc h1 h8 hb (okTxn_read _ ▸ hi), drive_device reg y rfl]
  rfl

end

/-- Settles O41: the read transaction leaves the byte read in the latch, which the change by the device does not touch,
and from which the write transaction computes its byte. -/
theorem setfWritesFromTheStaleByte : Obligations.SetfWritesFromTheStaleByte := by
  unfold Obligations.SetfWritesFromTheStaleByte
  rintro s _ _ es reg off w v y hc hcs hdev hl h1 h8 rfl rfl hi
  have heard : s.deviceHeard = true := by
    cases ht : s.cfg.transport <;> simp [State.deviceHeard, ht, hl]
  have whole := exec_setf_read_device (v := v) hc h1 h8 heard
    (by simpa only [List.append_assoc, List.cons_append, List.nil_append] using hi)
  have between := exec_setf_read_device (s := { s with inputs := okTxn s.cfg.transport .read ++ [.device reg y] })
    (v := v) hc h1 h8 heard rfl
  rw [drive_setf_write (by rfl) (by rfl) (by simp)] at whole
  refine ⟨_, _, between, rfl, ?_, rfl, whole, ?_, ?_⟩
  · exact (State.devRead_devWrite hdev reg reg y).trans (if_pos rfl)
  · exact completed_complete rfl (by simp [State.setfRead, accepted, hcs]) rfl rfl
  · exact (State.devRead_devWrite (State.devWrite_wf hdev reg y) reg reg _).trans (if_pos rfl)

end Sys2Proof.Machine
end

section
/-! PROOFS. The encoding of 30_encoding.md: the decoder and the encoder are inverse to each other on the legal words, the
illegal words are those of R86, the rows of R85 are the decoder's, and the assembler's words are legal. -/

namespace Sys2Proof

open Laws

/-! ### Legal words -/

/-- A word decodes to a command exactly when it is of that command's row, with the conditions of R86. -/
theorem decode_eq_ok_iff {maxBurst : Nat} {w : Word} {i : Instr} :
    decode maxBurst w = .ok i ↔
      rsv0Field w = 0 ∧ rsv1Field w = 0 ∧
        ((opField w = 0x1 ∧ offField w = 0 ∧ wm1Field w = 0 ∧ i = .write (regField w) (dataField w)) ∨
          (opField w = 0x2 ∧ offField w = 0 ∧ wm1Field w = 0 ∧ dataField w = 0 ∧ i = .read (regField w)) ∨
          (opField w = 0x3 ∧ offField w = 0 ∧ wm1Field w = 0 ∧ (dataField w).toNat ≤ maxBurst ∧
            i = .reads (regField w) (dataField w).toNat) ∨
          (opField w = 0x4 ∧ (offField w).toNat + (wm1Field w).toNat + 1 ≤ 8 ∧
            i = .setf (regField w) (offField w).toNat ((wm1Field w).toNat + 1) (dataField w))) := by
  refine ⟨decode_ok_cases, ?_⟩
  rintro ⟨rsv0, rsv1, ⟨op, off, wm1, rfl⟩ | ⟨op, off, wm1, data, rfl⟩ | ⟨op, off, wm1, burst, rfl⟩ | ⟨op, width, rfl⟩⟩
  · simp [decode, rsv0, rsv1, op, off, wm1]
  · simp [decode, rsv0, rsv1, op, off, wm1, data]
  · simp [decode, rsv0, rsv1, op, off, wm1, burst]
  · simp [decode, rsv0, rsv1, op, Nat.not_lt.2 width]

/-- The operands of a decoded command are in range. -/
theorem wf_of_decode {maxBurst : Nat} {w : Word} {i : Instr} (h : decode maxBurst w = .ok i) :
    i.wf maxBurst = true := by
  obtain ⟨-, -, row⟩ := decode_ok_cases h
  obtain ⟨-, -, -, rfl⟩ | ⟨-, -, -, -, rfl⟩ | ⟨-, -, -, burst, rfl⟩ | ⟨-, width, rfl⟩ := row
  · rfl
  · rfl
  · simpa [Instr.wf] using burst
  · simpa [Instr.wf, Nat.add_assoc] using width

/-- The seven fields of an assembled word (R81). -/
@[simp] theorem fields_assembleWord (op : BitVec 4) (reg : RegAddr) (off wm1 : BitVec 3) (data : Byte) :
    let w := assembleWord op reg off wm1 data
    opField w = op ∧ rsv0Field w = 0 ∧ regField w = reg ∧ offField w = off ∧ wm1Field w = wm1 ∧ rsv1Field w = 0 ∧
      dataField w = data :=
  ⟨opField_assembleWord .., rsv0Field_assembleWord .., regField_assembleWord .., offField_assembleWord ..,
    wm1Field_assembleWord .., rsv1Field_assembleWord .., dataField_assembleWord ..⟩

/-- The word of a well-formed command is legal and decodes to it: no operand loses bits in its field. -/
theorem decode_encode {maxBurst : Nat} {i : Instr} (hm : maxBurst ≤ 255) (hw : i.wf maxBurst = true) :
    decode maxBurst (encode i) = .ok i := by
  refine decode_eq_ok_iff.2 ?_
  cases i with
  | write reg v => simp [encode]
  | read reg => simp [encode]
  | reads reg n =>
    have burst : n ≤ maxBurst := by simpa [Instr.wf] using hw
    have data : n % 256 = n := Nat.mod_eq_of_lt (by omega)
    simp [encode, data, burst]
  | setf reg off width v =>
    obtain ⟨one, eight⟩ : 1 ≤ width ∧ off + width ≤ 8 := by simpa [Instr.wf] using hw
    have hoff : off % 8 = off := Nat.mod_eq_of_lt (by omega)
    have hwm1 : (width - 1) % 8 = width - 1 := Nat.mod_eq_of_lt (by omega)
    have field : off + (width - 1) + 1 ≤ 8 := by omega
    simp [encode, hoff, hwm1, field, Nat.sub_add_cancel one]

/-- Settles O1: the fields of an assembled word are the operands, and well-formed operands fit in their fields. -/
theorem decodeOfEncodeIsTheCommand : Obligations.DecodeOfEncodeIsTheCommand := by
  unfold Obligations.DecodeOfEncodeIsTheCommand
  exact fun _ _ => decode_encode

/-- Settles O2: a legal word has reserved fields 0, so it is assembled from its other fields, and the checks of R84 have
passed on its operands. -/
theorem encodeOfDecodeIsTheWord : Obligations.EncodeOfDecodeIsTheWord := by
  unfold Obligations.EncodeOfDecodeIsTheWord
  exact fun _ _ _ h => ⟨encode_of_decode h, wf_of_decode h⟩

/-- Settles O5: each row of the decoder takes its operands from the fields. -/
theorem decodedOperandsAreTheWordsFields : Obligations.DecodedOperandsAreTheWordsFields := by
  unfold Obligations.DecodedOperandsAreTheWordsFields
  intro mb w i h
  obtain ⟨-, -, row⟩ := decode_ok_cases h
  obtain ⟨op, -, -, rfl⟩ | ⟨op, -, -, -, rfl⟩ | ⟨op, -, -, -, rfl⟩ | ⟨op, -, rfl⟩ := row
  · exact ⟨rfl, op, rfl⟩
  · exact ⟨rfl, op⟩
  · exact ⟨rfl, op, rfl⟩
  · exact ⟨rfl, op, rfl, rfl, rfl⟩

/-! ### Illegal words -/

/-- An operation code is one command's, or no command's and in one of the two ranges R86 reserves. -/
theorem opcode_cases : ∀ op : BitVec 4, op = 1 ∨ op = 2 ∨ op = 3 ∨ op = 4 ∨
    (op ≠ 1#4 ∧ op ≠ 2#4 ∧ op ≠ 3#4 ∧ op ≠ 4#4) ∧ (op = 0 ∨ 5 ≤ op.toNat) := by
  decide

/-- A check of the decoder refuses when the branch it takes does. -/
theorem exists_ite_eq_error {c : Prop} [Decidable c] {x y : Except IllegalWord Instr} :
    (∃ r, (if c then x else y) = .error r) ↔ if c then ∃ r, x = .error r else ∃ r, y = .error r := by
  split_ifs <;> rfl

/-- R86: the six kinds of illegal word. -/
theorem decode_error_iff {maxBurst : Nat} {w : Word} :
    (∃ r, decode maxBurst w = .error r) ↔
      ((opField w = 0 ∨ 5 ≤ (opField w).toNat) ∨
        (rsv0Field w ≠ 0 ∨ rsv1Field w ≠ 0) ∨
        ((opField w = 1 ∨ opField w = 2 ∨ opField w = 3) ∧ (offField w ≠ 0 ∨ wm1Field w ≠ 0)) ∨
        (opField w = 2 ∧ dataField w ≠ 0) ∨
        (opField w = 3 ∧ maxBurst < (dataField w).toNat) ∨
        (opField w = 4 ∧ 8 < (offField w).toNat + (wm1Field w).toNat + 1)) := by
  obtain op | op | op | op | ⟨⟨one, two, three, four⟩, op⟩ := opcode_cases (opField w)
  · simp [decode, exists_ite_eq_error, op, or_iff_not_imp_left]
  · simp [decode, exists_ite_eq_error, op, or_iff_not_imp_left]
  · simp [decode, exists_ite_eq_error, op, or_iff_not_imp_left]
  · simp [decode, exists_ite_eq_error, op, or_iff_not_imp_left]
  · simpa [decode, exists_ite_eq_error, one, two, three, four] using .inl op

/-- Settles O3: the decoder's checks are the six conditions, and the idle block accepts an illegal word by completing
with ILLEGAL at once. -/
theorem illegalWordsAndTheirEffect : Obligations.IllegalWordsAndTheirEffect := by
  unfold Obligations.IllegalWordsAndTheirEffect
  refine ⟨fun _ _ => decode_error_iff, ?_, fun _ => decode_error_iff.2 (.inl (.inl rfl))⟩
  rintro s w es hc hi ⟨r, hd⟩
  exact ⟨_, Machine.step_illegal hc hi hd, rfl, rfl, Machine.State.acceptIllegal_trace _,
    Machine.State.acceptIllegal_dev _⟩

/-! ### The opcode map -/

/-- Equality with a word whose reserved fields are 0 is equality field by field. -/
theorem eq_iff_fields {v w : Word} (h0 : rsv0Field w = 0) (h1 : rsv1Field w = 0) :
    v = w ↔ rsv0Field v = 0 ∧ rsv1Field v = 0 ∧ opField v = opField w ∧ regField v = regField w ∧
      offField v = offField w ∧ wm1Field v = wm1Field w ∧ dataField v = dataField w := by
  constructor
  · rintro rfl
    exact ⟨h0, h1, rfl, rfl, rfl, rfl, rfl⟩
  · rintro ⟨v0, v1, op, reg, off, wm1, data⟩
    rw [← assembleWord_fields_eq h0 h1, ← assembleWord_fields_eq v0 v1, op, reg, off, wm1, data]

/-- A mask acts on each field. -/
@[simp] theorem fields_and (v w : Word) :
    opField (v &&& w) = opField v &&& opField w ∧ rsv0Field (v &&& w) = rsv0Field v &&& rsv0Field w ∧
      regField (v &&& w) = regField v &&& regField w ∧ offField (v &&& w) = offField v &&& offField w ∧
      wm1Field (v &&& w) = wm1Field v &&& wm1Field w ∧ rsv1Field (v &&& w) = rsv1Field v &&& rsv1Field w ∧
      dataField (v &&& w) = dataField v &&& dataField w := by
  simp only [opField, rsv0Field, regField, offField, wm1Field, rsv1Field, dataField, BitVec.extractLsb'_and, and_self]

/-- How a row of R85 is made: its mask covers OP and the reserved bits, leaves REG out and has these values in OFF, WM1
and DATA, and its match value is this OP and else zeros. -/
abbrev OpRow.Checks (r : OpRow) (op : BitVec 4) (off wm1 : BitVec 3) (data : Byte) : Prop :=
  (opField r.mask = .allOnes 4 ∧ rsv0Field r.mask = .allOnes 1 ∧ rsv1Field r.mask = .allOnes 6 ∧ regField r.mask = 0 ∧
    offField r.mask = off ∧ wm1Field r.mask = wm1 ∧ dataField r.mask = data) ∧
  opField r.matchBits = op ∧ rsv0Field r.matchBits = 0 ∧ rsv1Field r.matchBits = 0 ∧ regField r.matchBits = 0 ∧
    offField r.matchBits = 0 ∧ wm1Field r.matchBits = 0 ∧ dataField r.matchBits = 0

/-- A word fits a row when its reserved fields are 0, its OP is the row's, and what the mask covers of OFF, WM1 and DATA
is 0. -/
theorem OpRow.Checks.fits_iff {r : OpRow} {w : Word} {op : BitVec 4} {off wm1 : BitVec 3} {data : Byte}
    (h : r.Checks op off wm1 data) :
    r.fits w = true ↔ rsv0Field w = 0 ∧ rsv1Field w = 0 ∧ opField w = op ∧
      offField w &&& off = 0 ∧ wm1Field w &&& wm1 = 0 ∧ dataField w &&& data = 0 := by
  obtain ⟨⟨hop, hrsv0, hrsv1, hreg, hoff, hwm1, hdata⟩, mop, m0, m1, mreg, moff, mwm1, mdata⟩ := h
  rw [OpRow.fits, decide_eq_true_iff, eq_iff_fields m0 m1]
  simp [hop, hrsv0, hrsv1, hreg, hoff, hwm1, hdata, mop, mreg, moff, mwm1, mdata, -BitVec.reduceAllOnes]

theorem rowWrite_checks : rowWrite.Checks 1 (.allOnes 3) (.allOnes 3) 0 := by decide
theorem rowRead_checks : rowRead.Checks 2 (.allOnes 3) (.allOnes 3) (.allOnes 8) := by decide
theorem rowReads_checks : rowReads.Checks 3 (.allOnes 3) (.allOnes 3) 0 := by decide
theorem rowSetf_checks : rowSetf.Checks 4 0 0 0 := by decide

/-- Settles O4: a row's match and mask say what the decoder checks of the fixed bits, and the extra conditions are the
decoder's checks on the operands. -/
theorem opcodeMapRows : Obligations.OpcodeMapRows := by
  unfold Obligations.OpcodeMapRows
  intro mb w
  refine ⟨?_, ?_, ?_, ?_⟩
  · rw [rowWrite_checks.fits_iff, BitVec.and_allOnes, BitVec.and_allOnes]
    simp [decode_eq_ok_iff]
  · rw [rowRead_checks.fits_iff, BitVec.and_allOnes, BitVec.and_allOnes, BitVec.and_allOnes]
    simp [decode_eq_ok_iff]
  · rw [rowReads_checks.fits_iff, BitVec.and_allOnes, BitVec.and_allOnes]
    simp [decode_eq_ok_iff, and_assoc]
  · rw [rowSetf_checks.fits_iff]
    simp [decode_eq_ok_iff, and_assoc, Nat.lt_succ_iff]

/-! ### The assembler -/

namespace Machine.Asm

/-- The commands a line may give are in range (R90). -/
def CommandsWf (maxBurst : Nat) (o : Option AsmLine) : Prop := ∀ i, o = some (.command i) → i.wf maxBurst = true

@[simp] theorem commandsWf_none (maxBurst : Nat) : CommandsWf maxBurst none := nofun

@[simp] theorem commandsWf_blank (maxBurst : Nat) : CommandsWf maxBurst (some .blank) := nofun

@[simp] theorem commandsWf_waitMs (maxBurst n : Nat) : CommandsWf maxBurst (some (.waitMs n)) := nofun

@[simp] theorem commandsWf_inRange (maxBurst reg v : Nat) (i : Instr) :
    CommandsWf maxBurst (inRange maxBurst reg v i) := by
  intro j h
  unfold inRange at h
  split_ifs at h with range
  cases h
  exact range.2.2

/-- Every mnemonic that gives a command, pseudo-instruction or not, gives it through the range check. -/
@[simp] theorem commandsWf_assemble (maxBurst : Nat) (mnemonic : List Char) (ops : List Nat) :
    CommandsWf maxBurst (assemble maxBurst mnemonic ops) := by
  unfold assemble
  repeat' split
  all_goals simp

theorem commandsWf_parseLine (maxBurst : Nat) (line : List Char) : CommandsWf maxBurst (parseLine maxBurst line) := by
  dsimp only [parseLine]
  split
  · simp
  · split <;> simp

/-- The word of an assembled command decodes to it. -/
theorem decode_encode_of_parseLine {maxBurst : Nat} {line : List Char} {i : Instr} (hm : maxBurst ≤ 255)
    (h : parseLine maxBurst line = some (.command i)) : decode maxBurst (encode i) = .ok i :=
  decode_encode hm (commandsWf_parseLine maxBurst line i h)

/-- A worked example of the assembler, whose word is known, is one of the decoder. -/
theorem decode_of_assembled {maxBurst : Nat} {line : List Char} {w : Word} {i : Instr} (hm : maxBurst ≤ 255)
    (h : parseLine maxBurst line = some (.command i) ∧ encode i = w) :
    parseLine maxBurst line = some (.command i) ∧ encode i = w ∧ decode maxBurst w = .ok i :=
  ⟨h.1, h.2, h.2 ▸ decode_encode_of_parseLine hm h.1⟩

end Machine.Asm

/-- Settles O7: the assembler checks the range of every command, and the word of a well-formed command is legal. -/
theorem assemblerEmitsLegalWords : Obligations.AssemblerEmitsLegalWords := by
  unfold Obligations.AssemblerEmitsLegalWords
  exact fun _ _ _ => Machine.Asm.decode_encode_of_parseLine

/-- Settles O6: each line is assembled and its word computed; that the word decodes to the command is the round trip. -/
theorem specWordsDecode : Obligations.SpecWordsDecode := by
  unfold Obligations.SpecWordsDecode
  refine ⟨fun x hx => Machine.Asm.decode_of_assembled (by decide) ?_, by decide⟩
  revert x
  decide

end Sys2Proof
end

section
/-! PROOFS. WRITE and READS with every primitive Ok, on either transport (R108, R109, R111, R112, R130, R136). -/

namespace Sys2Proof.Machine

section
variable {s : State} {es : List Event} {reg : RegAddr}

/-- WRITE through its write transaction. -/
theorem exec_write_ok {v : Byte} (hc : s.ctl = .idle) (hi : s.inputs = okTxn s.cfg.transport .write ++ es) :
    exec (.write reg v) s =
      .next (State.complete .none 0 (State.afterTxn .write [] (writeTrace s.cfg reg v)
        ({ accepted (.write reg v) s with inputs := es }.heardWrite s.deviceHeard [writeAddrByte reg, v] (.ok [])))) := by
  rw [exec_idle hc rfl, startCommand_eq_startTxn, hi]
  refine (drive_writeTxn (s := accepted (.write reg v) s) es rfl (fun _ _ => rfl)).trans ?_
  exact drive_idle _ _ rfl

/-- READS through its read transaction. -/
theorem exec_reads_ok {n : Nat} {x : Answer} {R : List Byte} (hc : s.ctl = .idle) (hn : n ≤ s.cfg.maxBurst)
    (hR : brings s reg n x R) (hi : s.inputs = readReturns s.cfg.transport x ++ es) :
    exec (.reads reg n) s =
      .next (State.complete .none 0 (State.storeReceived (State.afterTxn .read R (readTrace s.cfg reg n R)
        { accepted (.reads reg n) s with inputs := es }))) := by
  have hw : (Instr.reads reg n).wf s.cfg.maxBurst = true := by simpa [Instr.wf] using hn
  rw [exec_idle hc hw, startCommand_eq_startTxn, hi]
  refine (drive_readTxn (p := planReads reg n) (s := accepted (.reads reg n) s) es rfl hR).trans ?_
  exact drive_idle _ _ rfl

end

/-- The device that hears a write takes the byte in the register it names, and nowhere else (R54). -/
theorem State.devRead_heardWrite {s : State} (h : s.dev.wf) (reg a : RegAddr) (v : Byte) :
    (s.heardWrite true [writeAddrByte reg, v] (.ok [])).devRead a = if a = reg then v else s.devRead a := by
  simp only [State.heardWrite, writeAddrByte_setWidth]
  exact State.devRead_devWrite h reg a v

/-- What a WRITE that completes leaves, but for the device where it may not have heard it. -/
theorem exec_write_completes {s : State} {es : List Event} {reg : RegAddr} {v : Byte} (hc : s.ctl = .idle)
    (hcs : s.cfg.transport = .addressed → s.csAsserted = false) (hdev : s.dev.wf)
    (hi : s.inputs = okTxn s.cfg.transport .write ++ es) :
    ∃ t, exec (.write reg v) s = .next t ∧ Completed s t .none 0 es ∧
      t.trace = s.trace ++ writeTrace s.cfg reg v ∧ t.rbuf = s.rbuf ∧ t.rmwLatch = s.rmwLatch ∧
      (s.deviceHeard = true → t.devRead reg = v ∧ ∀ a, a ≠ reg → t.devRead a = s.devRead a) := by
  refine ⟨_, exec_write_ok hc hi, ?_⟩
  rw [State.heardWrite_eq]
  refine ⟨completed_complete rfl ?_ rfl rfl, rfl, rfl, rfl, fun heard => ?_⟩
  · cases ht : s.cfg.transport <;> simp [accepted, ht, hcs]
  · rw [heard]
    have read := State.devRead_heardWrite (s := { accepted (.write reg v) s with inputs := es }) hdev reg (v := v)
    exact ⟨(read reg).trans (if_pos rfl), fun a ha => (read a).trans (if_neg ha)⟩

/-- Settles O17: the trace of the transaction, and a device that hears it where the line is known. -/
theorem writeCompletesOnFramed : Obligations.WriteCompletesOnFramed := by
  unfold Obligations.WriteCompletesOnFramed
  intro s es reg v hc ht hdev hi
  obtain ⟨t, hx, done, trace, rbuf, latch, dev⟩ :=
    exec_write_completes (reg := reg) (v := v) hc (by simp [ht]) hdev (ht ▸ hi)
  simp only [writeTrace, ht] at trace
  exact ⟨t, hx, done, trace, rbuf, latch, fun hl => dev (by simp [State.deviceHeard, hl])⟩

/-- Settles O18: an ADDRESSED device always hears the transfer. -/
theorem writeCompletesOnAddressed : Obligations.WriteCompletesOnAddressed := by
  unfold Obligations.WriteCompletesOnAddressed
  intro s es reg v hc ht hcs hdev hi
  obtain ⟨t, hx, done, trace, rbuf, latch, dev⟩ :=
    exec_write_completes (reg := reg) (v := v) hc (fun _ => hcs) hdev (ht ▸ hi)
  simp only [writeTrace, ht] at trace
  obtain ⟨own, others⟩ := dev (by simp [State.deviceHeard, ht])
  exact ⟨t, hx, done, trace, rbuf, latch, others, own⟩

theorem brings_length {s : State} {reg : RegAddr} {n : Nat} {x : Answer} {R : List Byte} (h : brings s reg n x R) :
    R.length = n := by
  obtain ⟨-, length⟩ | ⟨-, -, rfl⟩ := h
  · exact length
  · simp [State.devBurst]

/-- What a READS that completes leaves. -/
theorem exec_reads_completes {s : State} {es : List Event} {reg : RegAddr} {n : Nat} {x : Answer} {R : List Byte}
    (hc : s.ctl = .idle) (hcs : s.cfg.transport = .addressed → s.csAsserted = false) (hn : n ≤ s.cfg.maxBurst)
    (hR : brings s reg n x R) (hi : s.inputs = readReturns s.cfg.transport x ++ es) :
    ∃ t, exec (.reads reg n) s = .next t ∧ Completed s t .none 0 es ∧
      t.trace = s.trace ++ readTrace s.cfg reg n R ∧ t.rbuf = R ++ s.rbuf.drop n ∧ t.rmwLatch = s.rmwLatch ∧
      t.dev = s.dev := by
  refine ⟨_, exec_reads_ok hc hn hR hi, completed_complete rfl ?_ rfl rfl, rfl, ?_, rfl, rfl⟩
  · cases ht : s.cfg.transport <;> simp [accepted, ht, hcs]
  · exact brings_length hR ▸ rfl

/-- Settles O19: the bytes the device sends go to the front of the read buffer. -/
theorem readsCompletesOnFramed : Obligations.ReadsCompletesOnFramed := by
  unfold Obligations.ReadsCompletesOnFramed
  intro s es reg n x R hc ht hn hR hi
  obtain ⟨t, hx, done, trace, rbuf, latch, dev⟩ := exec_reads_completes hc (by simp [ht]) hn hR (by rw [ht]; exact hi)
  simp only [readTrace, ht] at trace
  exact ⟨t, hx, done, trace, rbuf, latch, fun _ => dev⟩

/-- Settles O20: the same in the one transfer of the ADDRESSED transport. -/
theorem readsCompletesOnAddressed : Obligations.ReadsCompletesOnAddressed := by
  unfold Obligations.ReadsCompletesOnAddressed
  intro s es reg n x R hc ht hcs hn hR hi
  obtain ⟨t, hx, done, trace, rbuf, latch, dev⟩ := exec_reads_completes hc (fun _ => hcs) hn hR (by rw [ht]; exact hi)
  simp only [readTrace, ht] at trace
  exact ⟨t, hx, done, trace, rbuf, latch, dev⟩

end Sys2Proof.Machine
end

section
/-! PROOFS. The sequencer and the spec's procedures: the controller's run follows each procedure call by call
(R105, R106, R110, R130 to R136, R150, R213). -/

namespace Sys2Proof.Machine

open Pseudocode

/-! ### The bookkeeping stands beside what the procedures do -/

/-- The controller's bookkeeping of the transaction in flight, of which the procedures know nothing. -/
structure Bookkeeping where
  step : TxnStep
  phase : Phase
  firstErr : Option (ErrKind × Nat)
  rx : List Byte

/-- The state of the controller that has this bookkeeping, where the procedures are in the state `s`. -/
def State.withBooks (b : Bookkeeping) (s : State) : State :=
  { s with step := b.step, phase := b.phase, firstErr := b.firstErr, rx := b.rx }

section
variable (b : Bookkeeping) (s : State)

theorem State.heardWrite_withBooks (sure : Bool) (bytes : List Byte) (rep : Reply) :
    (s.withBooks b).heardWrite sure bytes rep = (s.heardWrite sure bytes rep).withBooks b := by
  unfold State.heardWrite
  split
  · split <;> rfl
  · rfl

theorem State.returned_withBooks (pr : Prim) (rep : Reply) :
    (s.withBooks b).returned pr rep = (s.returned pr rep).withBooks b := by
  have wire : (s.withBooks b).wire pr rep = (s.wire pr rep).withBooks b := by
    cases pr with
    | assertCs | releaseCs => cases rep <;> rfl
    | send bytes | addrSend _ bytes => exact s.heardWrite_withBooks b _ bytes rep
    | exchange | addrSendRecv | delayUs => rfl
  rw [State.returned, wire]
  rfl

/-- The transport's answer does not depend on the bookkeeping. -/
theorem answered_withBooks (reg : RegAddr) (pr : Prim) (a : Answer) :
    answered reg pr a (s.withBooks b) = (answered reg pr a s).map (Prod.map id (State.withBooks b)) := by
  cases a with
  | err e =>
    show (if s.cfg.eNative.has e then _ else _) = Except.map _ (if s.cfg.eNative.has e then _ else _)
    split
    · rw [State.returned_withBooks]; rfl
    · rfl
  | okBytes R =>
    show (if R.length = pr.expects then _ else _) = Except.map _ (if R.length = pr.expects then _ else _)
    split
    · rw [State.returned_withBooks]; rfl
    · rfl
  | ok =>
    show (if s.deviceHeard then _ else _) = Except.map _ (if s.deviceHeard then _ else _)
    split
    · rw [State.returned_withBooks]; rfl
    · exact congrArg (fun u => Except.ok (Reply.ok (s.freeBytes pr.expects), u))
        ((s.drawn pr.expects).returned_withBooks b pr _)

theorem perform_withBooks (reg : RegAddr) (pr : Prim) (e : Event) :
    perform reg pr e (s.withBooks b) = (perform reg pr e s).map (Prod.map id (State.withBooks b)) := by
  cases e with
  | clock =>
    simp only [perform]
    split
    · rw [State.returned_withBooks]; rfl
    · rfl
  | answer a =>
    simp only [perform]
    split
    · rfl
    · exact answered_withBooks b s reg pr a
  | hostWrite | hostRead | blockReset | device | otherMaster => rfl

end

/-! ### Following a procedure -/

/-- The controller's outcome `d` follows the procedure `x`: where `x` runs to its end, what `K` says of the end holds;
where it does not, and all events are returns, the command in flight does not complete. -/
def Follows (d : Host.Outcome State Fault Refusal) (returns : Prop) {α : Type} (x : Option α) (K : α → Prop) : Prop :=
  match x with
  | some a => K a
  | none => returns → ∀ t, d = .next t → t.ctl = .busy

section
variable {d : Host.Outcome State Fault Refusal} {returns : Prop} {α β : Type}

/-- Following one procedure after another. -/
theorem Follows.bind {x : Option α} {f : α → Option β} {K : α → Prop} {K' : β → Prop} (h : Follows d returns x K)
    (hf : ∀ a, K a → Follows d returns (f a) K') : Follows d returns (x >>= f) K' := by
  cases x with
  | none => exact h
  | some a => exact hf a h

end

/-- The return of the primitive in flight may be one to which the model gives no meaning. -/
theorem land_of_perform_error {p : Plan} {e : Event} {s : State} {r : Refusal} (he : e.isReturn = true)
    (h : perform p.reg (p.prim s) e s = .error r) : land p e s = .refused r := by
  cases e with
  | answer | clock => simp only [land, h]
  | hostWrite | hostRead | blockReset | device | otherMaster => cases he

/-- A run stops at its first event, if that is refused. -/
theorem drive_refused {p : Plan} {e : Event} {es : List Event} {s : State} {r : Refusal} (hc : s.ctl = .busy)
    (hl : land p e { s with inputs := es } = .refused r) : drive p (e :: es) s = .refused r := by
  rw [drive_busy _ _ _ hc, hl]

theorem planOf_prim_inputs (i : Instr) (es : List Event) (s : State) :
    (planOf i).prim { s with inputs := es } = (planOf i).prim s := by
  cases i <;> rfl

/-- The procedures are in state `s` and the controller is in state `u`, from where it runs on to its outcome `d`. The
parameters and the latch are those of `s₀`. -/
structure At (d : Host.Outcome State Fault Refusal) (returns : Prop) (i : Instr) (s₀ s u : State) : Prop where
  run : d = drive (planOf i) s.inputs u
  busy : s.ctl = .busy
  returns : returns → ∀ e ∈ s.inputs, e.isReturn = true
  cfg : s.cfg = s₀.cfg
  latch : s.rmwLatch = s₀.rmwLatch

section
variable {d : Host.Outcome State Fault Refusal} {returns : Prop} {i : Instr} {s₀ s u : State}

theorem call_nil (reg : RegAddr) (pr : Prim) (hi : s.inputs = []) : Pseudocode.call reg pr s = none := by
  simp only [Pseudocode.call, hi]

theorem call_cons (reg : RegAddr) (pr : Prim) {e : Event} {es : List Event} (hi : s.inputs = e :: es) :
    Pseudocode.call reg pr s = (perform reg pr e { s with inputs := es }).toOption := by
  simp only [Pseudocode.call, hi]
  cases perform reg pr e { s with inputs := es } <;> rfl

/-- One call of a procedure is the call in flight of the controller, and its return is followed by the controller's
move. -/
theorem At.call {b : Bookkeeping} {pr : Prim} (h : At d returns i s₀ s (s.withBooks b))
    (hp : (planOf i).prim (s.withBooks b) = pr) :
    Follows d returns (call i.reg pr s) fun x =>
      At d returns i s₀ x.2 ((planOf i).advance x.1 (x.2.withBooks b)) := by
  obtain ⟨run, busy, ret, cfg, latch⟩ := h
  cases hi : s.inputs with
  | nil =>
    rw [call_nil _ _ hi]
    rw [hi] at run
    rintro - t ht
    cases run.symm.trans ht
    exact busy
  | cons e es =>
    rw [call_cons _ _ hi]
    rw [hi] at run ret
    have prim : (planOf i).prim (State.withBooks b { s with inputs := es }) = pr :=
      (planOf_prim_inputs i es (s.withBooks b)).trans hp
    have returned := perform_withBooks b { s with inputs := es } i.reg pr e
    rw [← planOf_reg, ← prim] at returned
    rw [← planOf_reg, ← prim]
    cases hperf : perform (planOf i).reg ((planOf i).prim (State.withBooks b { s with inputs := es })) e
      { s with inputs := es } with
    | ok x =>
      obtain ⟨rep, s'⟩ := x
      rw [hperf] at returned
      obtain ⟨-, -, hs'⟩ := perform_spec hperf
      have inputs : s'.inputs = es := by rw [hs']
      refine ⟨?_, by rw [hs']; exact busy, fun hr e he => ret hr e (List.mem_cons_of_mem _ (inputs ▸ he)),
        by rw [hs']; exact cfg, by rw [hs']; exact latch⟩
      rw [run, inputs]
      exact drive_next busy (land_of_perform returned)
    | error r =>
      rw [hperf] at returned
      intro hr t ht
      have refused := drive_refused (s := s.withBooks b) busy
        (land_of_perform_error (ret hr e List.mem_cons_self) returned)
      cases (run.symm.trans ht).symm.trans refused

/-- Where the controller stands does not depend on what a procedure's own bookkeeping does to its state. -/
theorem At.congr {s' u' : State} (h : At d returns i s₀ s u) (hu : u = u')
    (hs : s'.inputs = s.inputs ∧ s'.ctl = s.ctl ∧ s'.cfg = s.cfg ∧ s'.rmwLatch = s.rmwLatch) :
    At d returns i s₀ s' u' := by
  obtain ⟨inputs, ctl, cfg, latch⟩ := hs
  exact ⟨by rw [inputs, ← hu]; exact h.run, ctl.trans h.busy, by rw [inputs]; exact h.returns, cfg.trans h.cfg,
    latch.trans h.latch⟩

end

/-! ### The transactions (R105, R106, R110) -/

/-- The error a transaction's result is. -/
def Pseudocode.TxnResult.error : TxnResult → Option (ErrKind × Nat)
  | .ok _ => none
  | .err k e => some (k, e)

/-- The bookkeeping holds the result of a transaction of this kind. -/
structure Bookkeeping.Holds (b : Bookkeeping) (ph : Phase) (res : TxnResult) : Prop where
  phase : b.phase = ph
  error : b.firstErr = TxnResult.error res
  received : ph = .read → ∀ R, res = .ok R → b.rx = R

section
variable (d : Host.Outcome State Fault Refusal) (returns : Prop) (i : Instr) (s₀ : State) (ph : Phase)

/-- A body has run, and the controller goes on with the release. -/
def BodyDone (x : TxnResult × State) : Prop :=
  ∃ b : Bookkeeping, b.Holds ph x.1 ∧ At d returns i s₀ x.2 (x.2.withBooks { b with step := .fRelease })

/-- A transaction has run, and the controller ends it. -/
def TxnDone (x : TxnResult × State) : Prop :=
  ∃ b : Bookkeeping, b.Holds ph x.1 ∧ At d returns i s₀ x.2 ((planOf i).endTxn (x.2.withBooks b))

end

/-- After a failed assert or release the controller does with the device what the procedures do. -/
theorem unsureWrite_withBooks (i : Instr) (b : Bookkeeping) (e : Nat) (s : State) :
    (planOf i).unsureWrite (s.withBooks b) = (selectReturned i.reg b.phase (.err e) s).withBooks b := by
  rw [← planOf_reg]
  cases hp : b.phase <;> simp only [Plan.unsureWrite, State.withBooks, hp] <;> rfl

theorem selectReturned_same (reg : RegAddr) (ph : Phase) (rep : Reply) (s : State) :
    (selectReturned reg ph rep s).inputs = s.inputs ∧ (selectReturned reg ph rep s).ctl = s.ctl ∧
      (selectReturned reg ph rep s).cfg = s.cfg ∧ (selectReturned reg ph rep s).rmwLatch = s.rmwLatch := by
  unfold selectReturned
  split <;> exact ⟨rfl, rfl, rfl, rfl⟩

/-- The bookkeeping after the release: its error is held, unless there was one before (R105, R107). -/
def Bookkeeping.released (rep : Reply) (b : Bookkeeping) : Bookkeeping :=
  { b with
    step := .fSettle2
    firstErr := match rep with | .ok _ => b.firstErr | .err e => b.firstErr.or (some (.chipSelect, e)) }

theorem Bookkeeping.Holds.released {b : Bookkeeping} {ph : Phase} {res : TxnResult} (h : b.Holds ph res)
    (rep : Reply) : (b.released rep).Holds ph (firstError res rep) where
  phase := h.phase
  error := by
    have held := h.error
    cases res <;> cases rep <;> simp [Bookkeeping.released, held, TxnResult.error, firstError]
  received hp R hR := by
    cases res <;> cases rep <;> cases hR
    exact h.received hp R rfl

theorem advance_failedAssert (i : Instr) (ph : Phase) (e : Nat) (s : State) :
    (planOf i).advance (.err e) (s.withBooks ⟨.fAssert, ph, none, []⟩) =
      (planOf i).endTxn
        ((selectReturned i.reg ph (.err e) s).withBooks ⟨.fAssert, ph, some (.chipSelect, e), []⟩) :=
  congrArg (fun u : State => (planOf i).endTxn { u with firstErr := some (.chipSelect, e) })
    (unsureWrite_withBooks i ⟨.fAssert, ph, none, []⟩ e s)

theorem advance_fRelease (i : Instr) (rep : Reply) (b : Bookkeeping) (s : State) :
    (planOf i).advance rep (s.withBooks { b with step := .fRelease }) =
      State.withBooks (b.released rep) { selectReturned i.reg b.phase rep s with csAsserted := false } := by
  cases rep with
  | ok R =>
    have same : selectReturned i.reg b.phase (.ok R) s = s := by cases b.phase <;> rfl
    rw [same]
    rfl
  | err e =>
    exact congrArg
      (fun u : State => { u with
        csAsserted := false, firstErr := b.firstErr.or (some (.chipSelect, e)), step := .fSettle2 })
      (unsureWrite_withBooks i { b with step := .fRelease } e s)

section
variable {d : Host.Outcome State Fault Refusal} {returns : Prop} {i : Instr} {s₀ s : State} {ph : Phase}

/-- The controller follows FramedTxn with every body that it follows (R105). -/
theorem At.framedTxn {body : State → Option (TxnResult × State)} (ht : s.cfg.transport = .framed)
    (h : At d returns i s₀ s (State.startTxn ph s))
    (hbody : ∀ s₁, At d returns i s₀ s₁ (s₁.withBooks ⟨.fSend, ph, none, []⟩) →
      Follows d returns (body s₁) (BodyDone d returns i s₀ ph)) :
    Follows d returns (framedTxn i.reg ph body s) (TxnDone d returns i s₀ ph) := by
  have start : State.startTxn ph s = s.withBooks ⟨.fAssert, ph, none, []⟩ := by
    simp only [State.startTxn, ht, State.withBooks]
  refine ((h.congr start ⟨rfl, rfl, rfl, rfl⟩).call rfl).bind ?_
  rintro ⟨_ | e, s₁⟩ asserted
  case err =>
    exact ⟨⟨.fAssert, ph, some (.chipSelect, e), []⟩, ⟨rfl, rfl, nofun⟩,
      asserted.congr (advance_failedAssert i ph e s₁) (selectReturned_same ..)⟩
  case ok =>
    have selected : At d returns i s₀ { s₁ with csAsserted := true }
        (State.withBooks ⟨.fSettle1, ph, none, []⟩ { s₁ with csAsserted := true }) :=
      asserted.congr rfl ⟨rfl, rfl, rfl, rfl⟩
    refine (selected.call rfl).bind ?_
    rintro ⟨_, s₂⟩ waited
    refine (hbody s₂ (waited.congr rfl ⟨rfl, rfl, rfl, rfl⟩)).bind ?_
    rintro ⟨res, s₃⟩ ⟨b, holds, done⟩
    refine (done.call rfl).bind ?_
    rintro ⟨rep, s₄⟩ returned
    have released : At d returns i s₀ { selectReturned i.reg b.phase rep s₄ with csAsserted := false } _ :=
      returned.congr (advance_fRelease i rep b s₄) (selectReturned_same ..)
    rw [holds.phase] at released
    obtain ⟨-, -, cfg, -⟩ := selectReturned_same i.reg ph rep s₄
    refine (released.call (congrArg (fun c : Config => Prim.delayUs c.tSettleUs) cfg)).bind ?_
    rintro ⟨_, s₅⟩ ended
    exact ⟨b.released rep, holds.released rep, ended⟩

/-- The write body sends the register and the byte (R106). -/
theorem At.framedWriteBody {v : Byte} (h : At d returns i s₀ s (s.withBooks ⟨.fSend, .write, none, []⟩))
    (hv : (planOf i).payload (s.withBooks ⟨.fSend, .write, none, []⟩) = v) :
    Follows d returns (framedWriteBody i.reg v s) (BodyDone d returns i s₀ .write) := by
  refine (h.call (by rw [Plan.prim_fSend_write rfl rfl hv, planOf_reg])).bind ?_
  rintro ⟨_ | e, s₁⟩ sent
  case ok => exact ⟨⟨.fRelease, .write, none, []⟩, ⟨rfl, rfl, nofun⟩, sent.congr rfl ⟨rfl, rfl, rfl, rfl⟩⟩
  case err => exact ⟨⟨.fRelease, .write, some (.send, e), []⟩, ⟨rfl, rfl, nofun⟩, sent.congr rfl ⟨rfl, rfl, rfl, rfl⟩⟩

/-- The read body sends the register and exchanges zeros for the bytes (R106). -/
theorem At.framedReadBody (h : At d returns i s₀ s (s.withBooks ⟨.fSend, .read, none, []⟩)) :
    Follows d returns (framedReadBody i.reg (planOf i).count s) (BodyDone d returns i s₀ .read) := by
  refine (h.call (by simp [Plan.prim, Plan.header, State.withBooks])).bind ?_
  rintro ⟨_ | e, s₁⟩ sent
  case err => exact ⟨⟨.fRelease, .read, some (.send, e), []⟩, ⟨rfl, rfl, nofun⟩, sent.congr rfl ⟨rfl, rfl, rfl, rfl⟩⟩
  case ok =>
    have next : At d returns i s₀ s₁ (s₁.withBooks ⟨.fExch, .read, none, []⟩) := sent.congr rfl ⟨rfl, rfl, rfl, rfl⟩
    refine (next.call rfl).bind ?_
    rintro ⟨R | e, s₂⟩ exchanged
    case ok =>
      exact ⟨⟨.fRelease, .read, none, R⟩, ⟨rfl, rfl, by rintro - _ ⟨⟩; rfl⟩, exchanged.congr rfl ⟨rfl, rfl, rfl, rfl⟩⟩
    case err =>
      exact ⟨⟨.fRelease, .read, some (.exchange, e), []⟩, ⟨rfl, rfl, nofun⟩,
        exchanged.congr rfl ⟨rfl, rfl, rfl, rfl⟩⟩

/-- An ADDRESSED transaction begins at its one transfer. -/
theorem startTxn_addressed (ph : Phase) (ht : s.cfg.transport = .addressed) :
    State.startTxn ph s = s.withBooks ⟨.aXfer, ph, none, []⟩ := by
  simp only [State.startTxn, ht, State.withBooks]

/-- The one transfer of an ADDRESSED write transaction (R110). -/
theorem At.addrWrite {v : Byte} (h : At d returns i s₀ s (s.withBooks ⟨.aXfer, .write, none, []⟩))
    (hv : (planOf i).payload (s.withBooks ⟨.aXfer, .write, none, []⟩) = v) :
    Follows d returns (addrWrite i.reg v s) (TxnDone d returns i s₀ .write) := by
  refine (h.call (by rw [Plan.prim_aXfer_write rfl rfl hv, planOf_reg]; rfl)).bind ?_
  rintro ⟨R | e, s₁⟩ sent
  case ok => exact ⟨⟨.aXfer, .write, none, R⟩, ⟨rfl, rfl, nofun⟩, sent⟩
  case err => exact ⟨⟨.aXfer, .write, some (.bus, e), []⟩, ⟨rfl, rfl, nofun⟩, sent⟩

/-- The one transfer of an ADDRESSED read transaction (R110). -/
theorem At.addrRead (h : At d returns i s₀ s (s.withBooks ⟨.aXfer, .read, none, []⟩)) :
    Follows d returns (addrRead i.reg (planOf i).count s) (TxnDone d returns i s₀ .read) := by
  refine (h.call (by simp [Plan.prim, Plan.header, State.withBooks])).bind ?_
  rintro ⟨R | e, s₁⟩ sent
  case ok => exact ⟨⟨.aXfer, .read, none, R⟩, ⟨rfl, rfl, by rintro - _ ⟨⟩; rfl⟩, sent⟩
  case err => exact ⟨⟨.aXfer, .read, some (.bus, e), []⟩, ⟨rfl, rfl, nofun⟩, sent⟩

/-- The controller follows DoWrite (R131). -/
theorem At.doWrite {v : Byte} (h : At d returns i s₀ s (State.startTxn .write s))
    (hv : ∀ u : State, u.rmwLatch = s₀.rmwLatch → (planOf i).payload u = v) :
    Follows d returns (doWrite i.reg v s) (TxnDone d returns i s₀ .write) := by
  unfold Pseudocode.doWrite
  cases ht : s.cfg.transport with
  | framed => exact At.framedTxn ht h fun s₁ h₁ => h₁.framedWriteBody (hv _ h₁.latch)
  | addressed => exact (h.congr (startTxn_addressed _ ht) ⟨rfl, rfl, rfl, rfl⟩).addrWrite (hv _ h.latch)

/-- The controller follows DoRead (R132). -/
theorem At.doRead (h : At d returns i s₀ s (State.startTxn .read s)) :
    Follows d returns (doRead i.reg (planOf i).count s) (TxnDone d returns i s₀ .read) := by
  unfold Pseudocode.doRead
  cases ht : s.cfg.transport with
  | framed => exact At.framedTxn ht h fun s₁ h₁ => h₁.framedReadBody
  | addressed => exact (h.congr (startTxn_addressed _ ht) ⟨rfl, rfl, rfl, rfl⟩).addrRead

end

/-! ### The commands (R130 to R136, R150, R213) -/

/-- The controller has completed the command in the state the procedures ended in, but for its bookkeeping. -/
def CommandDone (d : Host.Outcome State Fault Refusal) (t₀ : State) : Prop :=
  ∃ t, d = .next t ∧ t.ctl = .idle ∧ settled t = settled t₀

section
variable {d : Host.Outcome State Fault Refusal} {returns : Prop} {s₀ s : State}

theorem CommandDone.of_at {i : Instr} {u : State} (h : At d returns i s₀ s u) {t₀ : State} (hu : u.ctl = .idle)
    (ht : settled u = settled t₀) : CommandDone d t₀ :=
  ⟨u, h.run.trans (drive_idle _ _ hu), hu, ht⟩

/-- A transaction that succeeded is followed by the rest of the command, which finds the bytes received. -/
theorem TxnDone.ok {i : Instr} {ph : Phase} {R : List Byte} (h : TxnDone d returns i s₀ ph (.ok R, s)) :
    ∃ b : Bookkeeping, b.phase = ph ∧ (ph = .read → b.rx = R) ∧
      At d returns i s₀ s ((planOf i).onOk (s.withBooks b)) := by
  obtain ⟨b, holds, ended⟩ := h
  rw [Plan.endTxn_of_none _ holds.error] at ended
  exact ⟨b, holds.phase, fun hp => holds.received hp R rfl, ended⟩

/-- A transaction that failed ends the command, in the procedures and in the controller. -/
theorem TxnDone.err {i : Instr} {ph : Phase} {k : ErrKind} {e : Nat} (h : TxnDone d returns i s₀ ph (.err k e, s))
    {t₀ : State} (ht : settled ((planOf i).onErr k e s) = settled t₀) : CommandDone d t₀ := by
  obtain ⟨b, holds, ended⟩ := h
  rw [Plan.endTxn_of_some _ holds.error] at ended
  cases i <;> exact .of_at ended rfl ht

theorem At.runWrite {reg : RegAddr} {v : Byte} (h : At d returns (.write reg v) s₀ s (State.startTxn .write s)) :
    Follows d returns (runWrite reg v s) (CommandDone d) := by
  refine (h.doWrite fun _ _ => rfl).bind ?_
  rintro ⟨_ | ⟨k, e⟩, s₁⟩ done
  case ok =>
    obtain ⟨b, -, -, ended⟩ := done.ok
    exact .of_at ended rfl rfl
  case err => exact done.err rfl

theorem At.runReads {reg : RegAddr} {n : Nat} (h : At d returns (.reads reg n) s₀ s (State.startTxn .read s)) :
    Follows d returns (runReads reg n s) (CommandDone d) := by
  refine h.doRead.bind ?_
  rintro ⟨R | ⟨k, e⟩, s₁⟩ done
  case ok =>
    obtain ⟨b, -, received, ended⟩ := done.ok
    refine .of_at ended rfl ?_
    rw [← received rfl]
    rfl
  case err => exact done.err rfl

theorem At.runSetf {reg : RegAddr} {off w : Nat} {v : Byte}
    (h : At d returns (.setf reg off w v) s₀ s (State.startTxn .read s)) :
    Follows d returns (runSetf reg off w v s) (CommandDone d) := by
  refine h.doRead.bind ?_
  rintro ⟨R | ⟨k, e⟩, s₁⟩ done
  case err => exact done.err rfl
  case ok =>
    obtain ⟨⟨st, _, err, rx⟩, rfl, received, ended⟩ := done.ok
    obtain rfl : rx = R := received rfl
    have latched : At d returns (.setf reg off w v) { s₁ with rmwLatch := rx.headD 0 } { s₁ with rmwLatch := rx.headD 0 }
        (State.startTxn .write { s₁ with rmwLatch := rx.headD 0 }) :=
      ⟨ended.run, ended.busy, ended.returns, rfl, rfl⟩
    refine (latched.doWrite fun u hu => congrArg (merge · off w v) hu).bind ?_
    rintro ⟨_ | ⟨k, e⟩, s₂⟩ done
    case ok =>
      obtain ⟨⟨st, _, err, rx⟩, rfl, -, ended⟩ := done.ok
      exact .of_at ended rfl rfl
    case err => exact done.err rfl

/-- The controller follows the procedure of every command. -/
theorem At.run_command {i : Instr} (h : At d returns i s₀ s (State.startTxn (planOf i).first s)) :
    Follows d returns (Pseudocode.run i s) (CommandDone d) := by
  cases i with
  | write reg v => exact h.runWrite
  | read reg => exact At.runReads (n := 1) ⟨h.run, h.busy, h.returns, h.cfg, h.latch⟩
  | reads reg n => exact h.runReads
  | setf reg off w v => exact h.runSetf

end

/-- Acceptance is the same in both, so `exec` follows the spec's `accept` (R213). -/
theorem exec_follows {i : Instr} {s : State} (hc : s.ctl = .idle) (hw : i.wf s.cfg.maxBurst = true) :
    Follows (exec i s) (∀ e ∈ s.inputs, e.isReturn = true) (accept i s) (CommandDone (exec i s)) := by
  have begun : At (exec i s) (∀ e ∈ s.inputs, e.isReturn = true) i (accepted i s) (accepted i s)
      (State.startTxn (planOf i).first (accepted i s)) :=
    ⟨(exec_idle hc hw).trans (by rw [startCommand_eq_startTxn]; rfl), rfl, id, rfl, rfl⟩
  exact begun.run_command

/-- Settles O29: where the procedures run to their end, the controller has followed them. -/
theorem sequencerDoesWhatTheProceduresDo : Obligations.SequencerDoesWhatTheProceduresDo := by
  unfold Obligations.SequencerDoesWhatTheProceduresDo
  intro s t₀ i hc hw h
  have follows := exec_follows hc hw
  rwa [h] at follows

/-- Settles O30: where the procedures do not run to their end, the controller does not complete the command either. -/
theorem completedRunsAreThoseOfTheProcedures : Obligations.CompletedRunsAreThoseOfTheProcedures := by
  unfold Obligations.CompletedRunsAreThoseOfTheProcedures
  intro s t i hc hw returns hx ht
  have follows := exec_follows hc hw
  cases h : accept i s with
  | some t₀ =>
    rw [h] at follows
    obtain ⟨t', hx', -, same⟩ := follows
    cases hx.symm.trans hx'
    exact ⟨t₀, rfl, same⟩
  | none =>
    rw [h] at follows
    cases ht.symm.trans (follows returns t hx)

end Sys2Proof.Machine
end

section
/-! PROOFS. A command whose transaction fails, on either transport: the events it takes, its trace and its completion
(R107, R110, R155, R156, R210). -/

namespace Sys2Proof.Machine

/-! ### The end of a command that failed -/

/-- A failed command completes with the error; the bytes it would have stored hold any value (R133, R136). -/
theorem planOf_onErr (i : Instr) (k : ErrKind) (e : Nat) (s : State) :
    (planOf i).onErr k e s = (s.rbufUnspecified (storedBytes i)).complete k e := by
  have none_stored : s.rbufUnspecified 0 = s := by simp [State.rbufUnspecified, State.freeBytes, overwritePrefix]
  cases i with
  | write | setf => simp only [storedBytes, none_stored]; rfl
  | read | reads => rfl

theorem storedBytes_le_count (i : Instr) : storedBytes i ≤ (planOf i).count := by
  cases i with
  | setf => exact Nat.zero_le 1
  | _ => exact Nat.le_refl _

/-- What lies beyond the bytes a command may store lies beyond those it asks for. -/
theorem drop_count_of_drop_storedBytes {i : Instr} {l l' : List Byte}
    (h : l.drop (storedBytes i) = l'.drop (storedBytes i)) : l.drop (planOf i).count = l'.drop (planOf i).count := by
  obtain ⟨m, hm⟩ := Nat.exists_eq_add_of_le (storedBytes_le_count i)
  rw [hm, ← List.drop_drop, h, List.drop_drop]

/-- A transaction has failed with the trace `tr` and left the events `es`; `u` is the state it ended in. -/
structure FailedTxn (s u : State) (es : List Event) (tr : List PhyEvent) : Prop where
  cfg : u.cfg = s.cfg
  status : u.status = s.status
  rbuf : u.rbuf = s.rbuf
  latch : u.rmwLatch = s.rmwLatch
  hostLog : u.hostLog = s.hostLog
  select : u.csAsserted = false
  inputs : u.inputs = es
  trace : u.trace = s.trace ++ tr

/-- What a command leaves whose transaction has failed. -/
theorem exec_fails {i : Instr} {s u : State} {es : List Event} {tr : List PhyEvent} {k : ErrKind} {e : Nat}
    (hx : exec i s = drive (planOf i) es ((planOf i).onErr k e u)) (h : FailedTxn (accepted i s) u es tr) :
    ∃ t, exec i s = .next t ∧ Completed s t k e es ∧ t.trace = s.trace ++ tr ∧ t.rmwLatch = s.rmwLatch ∧
      t.rbuf.drop (planOf i).count = s.rbuf.drop (planOf i).count ∧ t.dev = u.dev := by
  rw [planOf_onErr] at hx
  refine ⟨_, hx.trans (drive_idle _ _ rfl), ?_, h.trace, h.latch, ?_, rfl⟩
  · exact h.inputs ▸ completed_complete h.status h.select h.cfg h.hostLog
  · refine drop_count_of_drop_storedBytes ((drop_overwritePrefix (State.freeBytes_length u _) u.rbuf).trans ?_)
    rw [h.rbuf]
    rfl

/-! ### A primitive that fails -/

section
variable {p : Plan} {s : State} {es : List Event} {e : Nat}

theorem drive_err {pr : Prim} (hc : s.ctl = .busy) (hp : p.prim { s with inputs := es } = pr)
    (hd : pr.isDelay = false) (he : s.cfg.eNative.has e = true) :
    drive p (.answer (.err e) :: es) s =
      drive p es (p.advance (.err e) ({ s with inputs := es }.returned pr (.err e))) :=
  drive_answer hc hp hd (if_pos he)

theorem Plan.prim_fSend (hs : s.step = .fSend) : p.prim s = .send (p.header s) := by
  simp only [Plan.prim, hs]

/-- A failed assert ends the transaction (R107 item 1). -/
theorem drive_failedAssert {ph : Phase} (hc : s.ctl = .busy) (ht : s.cfg.transport = .framed)
    (hcs : s.csAsserted = false) (he : s.cfg.eNative.has e = true) :
    ∃ u, drive p (.answer (.err e) :: es) (State.startTxn ph s) = drive p es (p.onErr .chipSelect e u) ∧
      FailedTxn s u es [⟨.assertCs, some (.err e)⟩] ∧ (ph = .read → u.dev = s.dev) ∧
      (s.dev.wf → ∀ a, a ≠ p.reg → u.devRead a = s.devRead a) := by
  have hs : (State.startTxn ph s).step = .fAssert := by simp [State.startTxn_step, ht]
  have hp : p.prim { State.startTxn ph s with inputs := es } = .assertCs := by simp only [Plan.prim, hs]
  rw [drive_err (by exact hc) hp rfl he]
  simp only [Plan.advance, State.returned, State.wire, State.record, hs]
  rw [Plan.endTxn_of_some _ rfl]
  cases ph with
  | read => exact ⟨_, rfl, ⟨rfl, rfl, rfl, rfl, rfl, hcs, rfl, rfl⟩, fun _ => rfl, fun _ _ _ => rfl⟩
  | write =>
    exact ⟨_, rfl, ⟨rfl, rfl, rfl, rfl, rfl, hcs, rfl, rfl⟩, nofun,
      fun hw _ ha => State.devRead_devUnspecified (s := s) hw ha⟩

/-- A failed ADDRESSED transfer ends the transaction (R110). -/
theorem drive_failedTransfer {pr : Prim} {ph : Phase} (hc : s.ctl = .busy) (ht : s.cfg.transport = .addressed)
    (hcs : s.csAsserted = false) (hp : p.prim { State.startTxn ph s with inputs := es } = pr)
    (hd : pr.isDelay = false) (he : s.cfg.eNative.has e = true) :
    ∃ u, drive p (.answer (.err e) :: es) (State.startTxn ph s) = drive p es (p.onErr .bus e u) ∧
      FailedTxn s u es [⟨pr, some (.err e)⟩] := by
  have hs : (State.startTxn ph s).step = .aXfer := by simp [State.startTxn_step, ht]
  rw [drive_err (by exact hc) hp hd he]
  simp only [Plan.advance, State.returned_eq, hs]
  rw [Plan.endTxn_of_some _ rfl]
  exact ⟨_, rfl, ⟨rfl, rfl, rfl, rfl, rfl, hcs, rfl, rfl⟩⟩

end

/-! ### A FRAMED transaction that fails after its assert -/

/-- The state in which the body of a FRAMED transaction begins. -/
def State.selected (ph : Phase) (es : List Event) (s : State) : State :=
  { State.startTxn ph s with
    inputs := es
    csAsserted := true
    step := .fSend
    trace := s.trace ++ [⟨.assertCs, some (.ok [])⟩, ⟨.delayUs s.cfg.tSettleUs, some (.ok [])⟩] }

/-- The body of a FRAMED transaction that began in `s` is over, with the trace `body`, and the release is in flight. -/
structure AtRelease (s : State) (ph : Phase) (err : Option (ErrKind × Nat)) (body : List PhyEvent) (u : State) :
    Prop where
  ctl : u.ctl = .busy
  cfg : u.cfg = s.cfg
  step : u.step = .fRelease
  phase : u.phase = ph
  firstErr : u.firstErr = err
  status : u.status = s.status
  rbuf : u.rbuf = s.rbuf
  latch : u.rmwLatch = s.rmwLatch
  hostLog : u.hostLog = s.hostLog
  dev : ph = .read → u.dev = s.dev
  trace : u.trace = (s.trace ++ [⟨.assertCs, some (.ok [])⟩, ⟨.delayUs s.cfg.tSettleUs, some (.ok [])⟩]) ++ body

section
variable {p : Plan} {s u : State} {es : List Event} {e : Nat} {ph : Phase}

/-- The steps of a FRAMED transaction up to its body. -/
theorem drive_selected (hc : s.ctl = .busy) (ht : s.cfg.transport = .framed) :
    drive p (.answer .ok :: .clock :: es) (State.startTxn ph s) = drive p es (s.selected ph es) := by
  rw [drive_fAssert (by exact hc) (by simp [State.startTxn_step, ht]), drive_fSettle1 (by exact hc) rfl]
  simp [State.selected]

/-- A failed send leaves the body (R107 item 2). -/
theorem drive_failedSend {bytes : List Byte} {l : List Event} (hc : s.ctl = .busy)
    (hb : ∀ v : State, v.phase = ph → p.header v = bytes) (he : s.cfg.eNative.has e = true) :
    ∃ u, drive p (.answer (.err e) :: es) (s.selected ph l) = drive p es u ∧
      AtRelease s ph (some (.send, e)) [⟨.send bytes, some (.err e)⟩] u := by
  have hp := (Plan.prim_fSend (p := p) (s := { s.selected ph l with inputs := es }) rfl).trans
    (congrArg Prim.send (hb _ rfl))
  rw [drive_err (by exact hc) hp rfl (by exact he)]
  simp only [Plan.advance, State.returned_eq, State.selected]
  refine ⟨_, rfl, hc, rfl, rfl, rfl, rfl, rfl, rfl, rfl, rfl, ?_, rfl⟩
  rintro rfl
  rw [← hb (State.startTxn .read s) rfl]
  rfl

/-- A failed exchange leaves the body (R107 item 2). -/
theorem drive_failedExchange {l : List Event} (hc : s.ctl = .busy) (he : s.cfg.eNative.has e = true) :
    ∃ u, drive p (.answer .ok :: .answer (.err e) :: es) (s.selected .read l) = drive p es u ∧
      AtRelease s .read (some (.exchange, e)) [⟨.send [readAddrByte p.reg], some (.ok [])⟩,
        ⟨.exchange (List.replicate p.count 0), some (.err e)⟩] u := by
  rw [drive_fSend_read (by exact hc) rfl rfl,
    drive_err (pr := .exchange (List.replicate p.count 0)) (by exact hc) rfl rfl (by exact he)]
  refine ⟨_, rfl, hc, rfl, rfl, rfl, rfl, rfl, rfl, rfl, rfl, fun _ => rfl, ?_⟩
  simp [Plan.advance, State.returned, State.wire, State.record, State.selected]

/-- A read body without error (R106). -/
theorem drive_readBody {l : List Event} {x : Answer} {R : List Byte} (hc : s.ctl = .busy)
    (hR : brings s p.reg p.count x R) :
    ∃ u, drive p (.answer .ok :: .answer x :: es) (s.selected .read l) = drive p es u ∧
      AtRelease s .read none [⟨.send [readAddrByte p.reg], some (.ok [])⟩,
        ⟨.exchange (List.replicate p.count 0), some (.ok R)⟩] u := by
  rw [drive_fSend_read (by exact hc) rfl rfl, drive_fExch (by exact hc) rfl (by exact hR)]
  exact ⟨_, rfl, hc, rfl, rfl, rfl, rfl, rfl, rfl, rfl, rfl, fun _ => rfl, by simp [State.selected]⟩

/-- A write body without error (R106). -/
theorem drive_writeBody {l : List Event} {v : Byte} (hc : s.ctl = .busy) (hv : ∀ u, p.payload u = v) :
    ∃ u, drive p (.answer .ok :: es) (s.selected .write l) = drive p es u ∧
      AtRelease s .write none [⟨.send [writeAddrByte p.reg, v], some (.ok [])⟩] u := by
  rw [drive_fSend_write (by exact hc) rfl rfl (hv _)]
  exact ⟨_, rfl, hc, rfl, rfl, rfl, rfl, rfl, rfl, rfl, rfl, nofun, rfl⟩

/-- The release, which answers Ok or an error of its own, and the second settle delay end a transaction that has
failed, with the error that came first (R107 items 3 to 5). -/
theorem AtRelease.fails {err : Option (ErrKind × Nat)} {body : List PhyEvent} {a : Answer} {r : Reply} {k : ErrKind}
    (h : AtRelease s ph err body u) (hr : replies s.cfg a r)
    (herr : err = some (k, e) ∨ err = none ∧ r = .err e ∧ k = .chipSelect) :
    ∃ v, drive p (.answer a :: .clock :: es) u = drive p es (p.onErr k e v) ∧
      FailedTxn s v es ([⟨.assertCs, some (.ok [])⟩, ⟨.delayUs s.cfg.tSettleUs, some (.ok [])⟩] ++ body ++
        [⟨.releaseCs, some r⟩, ⟨.delayUs s.cfg.tSettleUs, some (.ok [])⟩]) ∧
      (ph = .read → v.dev = s.dev) := by
  obtain ⟨hc, cfg, hs, hp, herr', status, rbuf, latch, hostLog, dev, trace⟩ := h
  subst err
  obtain ⟨rfl, rfl⟩ | ⟨e', rfl, he', rfl⟩ := hr
  · obtain held | ⟨-, ⟨⟩, -⟩ := herr
    rw [drive_fRelease hc hs, drive_fSettle2 (by exact hc) rfl, Plan.endTxn_of_some _ (by exact held)]
    exact ⟨_, rfl, ⟨cfg, status, rbuf, latch, hostLog, rfl, rfl, by simp [trace, cfg]⟩, dev⟩
  · have held : u.firstErr.or (some (.chipSelect, e')) = some (k, e) := by
      obtain herr | ⟨herr, ⟨⟩, rfl⟩ := herr <;> rw [herr] <;> rfl
    rw [drive_err (pr := .releaseCs) hc (by simp only [Plan.prim, hs]) rfl (by rw [cfg]; exact he')]
    simp only [Plan.advance, State.returned, State.wire, State.record, hs]
    rw [Plan.unsureWrite_eq, drive_fSettle2 (by exact hc) rfl, Plan.endTxn_of_some _ (by exact held)]
    refine ⟨_, rfl, ⟨cfg, status, rbuf, latch, hostLog, rfl, rfl, by simp [trace, cfg]⟩, fun hph => ?_⟩
    simp only [Plan.unsureWrite, hp, hph]
    exact dev hph

end

/-! ### The first transaction of a command -/

theorem planOf_first_read {i : Instr} (h : hasPhase i .read = true) : (planOf i).first = .read := by
  cases i with
  | write => cases h
  | _ => rfl

theorem planOf_header_first (i : Instr) (s : State) {v : State} (hv : v.phase = (planOf i).first) :
    (planOf i).header v = firstHeader i s := by
  unfold Plan.header
  rw [hv]
  cases i <;> rfl

theorem planOf_prim_first {i : Instr} {s : State} (ht : s.cfg.transport = .addressed) :
    (planOf i).prim (State.startTxn (planOf i).first s) = firstTransfer i s := by
  have hs : (State.startTxn (planOf i).first s).step = .aXfer := by simp [State.startTxn_step, ht]
  have hh := planOf_header_first i s (v := State.startTxn (planOf i).first s) rfl
  simp only [Plan.prim, hs, hh]
  cases i <;> rfl

@[simp] theorem firstTransfer_accepted (i : Instr) (s : State) : firstTransfer i (accepted i s) = firstTransfer i s := by
  cases i <;> rfl

theorem firstTransfer_isDelay (i : Instr) (s : State) : (firstTransfer i s).isDelay = false := by
  cases i <;> rfl

section
variable {s : State} {es : List Event} {i : Instr} {e : Nat}

/-- A command whose first transaction fails after its body, or in it. -/
theorem exec_fails_at_release {l : List Event} {u : State} {err : Option (ErrKind × Nat)} {body : List PhyEvent}
    {a : Answer} {r : Reply} {k : ErrKind} (hc : s.ctl = .idle) (ht : s.cfg.transport = .framed)
    (hw : i.wf s.cfg.maxBurst = true) (hi : s.inputs = .answer .ok :: .clock :: l)
    (hu : drive (planOf i) l ((accepted i s).selected (planOf i).first l) =
      drive (planOf i) (.answer a :: .clock :: es) u)
    (h : AtRelease (accepted i s) (planOf i).first err body u) (hr : replies s.cfg a r)
    (herr : err = some (k, e) ∨ err = none ∧ r = .err e ∧ k = .chipSelect) :
    ∃ t, exec i s = .next t ∧ Completed s t k e es ∧
      t.trace = s.trace ++ ([⟨.assertCs, some (.ok [])⟩, ⟨.delayUs s.cfg.tSettleUs, some (.ok [])⟩] ++ body ++
        [⟨.releaseCs, some r⟩, ⟨.delayUs s.cfg.tSettleUs, some (.ok [])⟩]) ∧
      t.rmwLatch = s.rmwLatch ∧ t.rbuf.drop (planOf i).count = s.rbuf.drop (planOf i).count ∧
      ((planOf i).first = .read → t.dev = s.dev) := by
  obtain ⟨v, hv, failed, dev⟩ := h.fails (p := planOf i) (es := es) hr herr
  have hx : exec i s = drive (planOf i) es ((planOf i).onErr k e v) := by
    rw [exec_idle hc hw, startCommand_eq_startTxn, hi, drive_selected (s := accepted i s) rfl ht, hu, hv]
  obtain ⟨t, hx, completed, trace, latch, rbuf, hdev⟩ := exec_fails hx failed
  exact ⟨t, hx, completed, trace, latch, rbuf, fun hp => hdev.trans (dev hp)⟩

end

/-- Settles O24: the assert is the first primitive of every command on FRAMED, and it is the only one. -/
theorem failedAssertEndsTheCommand : Obligations.FailedAssertEndsTheCommand := by
  unfold Obligations.FailedAssertEndsTheCommand
  intro s es i e hc ht hcs hw he hi
  obtain ⟨u, hu, failed, read, others⟩ :=
    drive_failedAssert (p := planOf i) (s := accepted i s) (ph := (planOf i).first) (es := es) rfl ht hcs he
  rw [← startCommand_eq_startTxn, ← hi, ← exec_idle hc hw] at hu
  obtain ⟨t, hx, completed, trace, latch, rbuf, dev⟩ := exec_fails hu failed
  refine ⟨t, hx, completed, trace, latch, rbuf,
    fun hp => dev.trans (read (planOf_first_read hp)), fun hw a ha => ?_⟩
  rw [State.devRead, dev]
  exact others hw a (planOf_reg i ▸ ha)

/-- Settles O25: a body that fails is followed by the release, whose own answer does not replace the body's error. -/
theorem failedBodyStillReleases : Obligations.FailedBodyStillReleases := by
  unfold Obligations.FailedBodyStillReleases
  intro s es i e a r hc ht hw he hr
  refine ⟨fun hi => ?_, fun hread hi => ?_⟩
  · obtain ⟨u, hu, body⟩ := drive_failedSend (p := planOf i) (s := accepted i s) (es := .answer a :: .clock :: es)
      (l := .answer (.err e) :: .answer a :: .clock :: es) rfl (fun v => planOf_header_first i s) he
    obtain ⟨t, hx, completed, trace, latch, rbuf, -⟩ := exec_fails_at_release hc ht hw hi hu body hr (.inl rfl)
    exact ⟨t, hx, completed, trace, latch, rbuf⟩
  · have first := planOf_first_read hread
    obtain ⟨u, hu, body⟩ := drive_failedExchange (p := planOf i) (s := accepted i s) (es := .answer a :: .clock :: es)
      (l := .answer .ok :: .answer (.err e) :: .answer a :: .clock :: es) rfl he
    rw [← first] at hu body
    obtain ⟨t, hx, completed, trace, latch, rbuf, dev⟩ := exec_fails_at_release hc ht hw hi hu body hr (.inl rfl)
    rw [planOf_reg] at trace
    exact ⟨t, hx, completed, trace, dev first, latch, rbuf⟩

/-- Settles O26: after a body without error the release's own error is the transaction's. -/
theorem failedReleaseReportsChipSelect : Obligations.FailedReleaseReportsChipSelect := by
  unfold Obligations.FailedReleaseReportsChipSelect
  intro s es e hc ht he
  have hr : replies s.cfg (.err e) (.err e) := .inr ⟨e, rfl, he, rfl⟩
  refine ⟨fun reg v hi => ?_, fun i x R hw hread hR hi => ?_⟩
  · obtain ⟨u, hu, body⟩ := drive_writeBody (p := planWrite reg v) (s := accepted (.write reg v) s)
      (es := .answer (.err e) :: .clock :: es) (l := .answer .ok :: .answer (.err e) :: .clock :: es) rfl fun _ => rfl
    obtain ⟨t, hx, completed, trace, latch, rbuf, -⟩ :=
      exec_fails_at_release (i := .write reg v) hc ht rfl hi hu body hr (.inr ⟨rfl, rfl, rfl⟩)
    exact ⟨t, hx, completed, trace, rbuf⟩
  · have first := planOf_first_read hread
    obtain ⟨u, hu, body⟩ := drive_readBody (p := planOf i) (s := accepted i s) (es := .answer (.err e) :: .clock :: es)
      (l := .answer .ok :: .answer x :: .answer (.err e) :: .clock :: es) rfl (planOf_reg i ▸ hR)
    rw [← first] at hu body
    obtain ⟨t, hx, completed, trace, latch, rbuf, dev⟩ :=
      exec_fails_at_release hc ht hw hi hu body hr (.inr ⟨rfl, rfl, rfl⟩)
    rw [planOf_reg] at trace
    exact ⟨t, hx, completed, trace, dev first, latch, rbuf⟩

/-- Settles O27: the one transfer of the transaction in flight has failed, in SETF's write phase too. -/
theorem failedAddressedTransferReportsBus : Obligations.FailedAddressedTransferReportsBus := by
  unfold Obligations.FailedAddressedTransferReportsBus
  intro s es e hc ht hcs he
  refine ⟨fun i hw hi => ?_, fun reg off w v x b h1 h8 hb hi => ?_⟩
  · obtain ⟨u, hu, failed⟩ := drive_failedTransfer (p := planOf i) (s := accepted i s) (es := es)
      (ph := (planOf i).first) rfl ht hcs ((planOf_prim_inputs i es _).trans (planOf_prim_first ht))
      (firstTransfer_isDelay i _) he
    rw [firstTransfer_accepted] at failed
    rw [← startCommand_eq_startTxn, ← hi, ← exec_idle hc hw] at hu
    obtain ⟨t, hx, completed, trace, latch, rbuf, -⟩ := exec_fails hu failed
    exact ⟨t, hx, completed, trace, latch, rbuf⟩
  · have hp : (planSetf reg off w v).prim
        { State.startTxn .write (s.setfRead (.setf reg off w v) b (.answer (.err e) :: es)) with inputs := es } =
        .addrSend s.cfg.devAddr [writeAddrByte reg, merge b off w v] :=
      Plan.prim_aXfer_write (by simp [State.startTxn_step, State.setfRead, accepted, ht]) rfl rfl
    obtain ⟨u, hu, failed⟩ := drive_failedTransfer
      (s := s.setfRead (.setf reg off w v) b (.answer (.err e) :: es)) rfl ht
      (by simp [State.setfRead, accepted, hcs]) hp rfl he
    refine ⟨u.complete .bus e, ?_, ?_, failed.trace.trans ?_, failed.rbuf⟩
    · rw [exec_setf_read hc h1 h8 hb (by rw [ht]; exact hi), hu]
      exact drive_idle _ _ rfl
    · exact failed.inputs ▸ completed_complete failed.status failed.select failed.cfg failed.hostLog
    · simp [State.setfRead, accepted, readTrace, ht, readAddrByte, writeAddrByte, Instr.reg]

end Sys2Proof.Machine
end

section
/-! PROOFS. Which primitives the block performs, and when: none while IDLE, those of its transport while BUSY, and none
more while the call in flight has not returned (R101, R102, R116, R224). -/

namespace Sys2Proof.Machine

/-! ### The call in flight -/

theorem State.calls_idle {s : State} (hc : s.ctl = .idle) : s.calls = s.trace := by
  simp only [State.calls, hc]

theorem State.calls_busy {s : State} {i : Instr} (hc : s.ctl = .busy) (hd : decode s.cfg.maxBurst s.cmd = .ok i) :
    s.calls = s.trace ++ [⟨(planOf i).prim s, none⟩] := by
  simp only [State.calls, hc, hd]

/-- `t` is `s` but for what an event beside the call in flight can change. -/
def SameCall (s t : State) : Prop :=
  t = { s with status := t.status, dev := t.dev, inputs := t.inputs, hostLog := t.hostLog }

theorem SameCall.refl (s : State) : SameCall s s := rfl

theorem SameCall.trans {s t u : State} (h : SameCall s t) (h' : SameCall t u) : SameCall s u := by
  unfold SameCall
  rw [h', h]

theorem SameCall.ctl {s t : State} (h : SameCall s t) : t.ctl = s.ctl := by rw [h]

theorem SameCall.calls {s t : State} (h : SameCall s t) : t.calls = s.calls := by
  have prim (i : Instr) : (planOf i).prim t = (planOf i).prim s := by
    rw [h]
    cases i <;> rfl
  unfold State.calls
  simp only [prim]
  rw [h]

/-- An event that is neither a return nor block reset leaves the call in flight (R116). -/
theorem land_waits {i : Instr} {e : Event} {s t : State} (hret : e.isReturn = false) (hres : e.isReset = false)
    (hl : land (planOf i) e s = .next t) : SameCall s t := by
  obtain ⟨_, _, _, -, rfl⟩ | ⟨_, _, -, rfl⟩ | ⟨rfl, -⟩ | ⟨_, _, -, rfl⟩ | ⟨rep, s', hp, -⟩ := land_cases hl
  · split <;> rfl
  · rfl
  · cases hres
  · rfl
  · obtain ⟨isReturn, -, -⟩ := perform_spec hp
    cases hret.symm.trans isReturn

theorem step_waits {s t : State} (hc : s.ctl = .busy)
    (he : ∀ e ∈ s.inputs, e.isReturn = false ∧ e.isReset = false) (h : step s = .next t) :
    SameCall s t ∧ ∀ e ∈ t.inputs, e.isReturn = false ∧ e.isReset = false := by
  obtain ⟨-, rfl⟩ | ⟨_, _, -, hidle, -⟩ | ⟨e, es, i, hi, -, -, hl⟩ := step_cases h
  · exact ⟨.refl t, he⟩
  · cases hc.symm.trans hidle
  · rw [hi] at he
    obtain ⟨hret, hres⟩ := he e List.mem_cons_self
    obtain ⟨inputs, -⟩ := land_inputs hl
    refine ⟨(land_waits hret hres hl :), ?_⟩
    rw [inputs]
    exact fun e' hmem => he e' (List.mem_cons_of_mem _ hmem)

/-- Steps of any machine are its first one, and then the others. -/
theorem run_succ {M : Host.Core} {k : Nat} {s t : M.State} (h : M.run (k + 1) s = .next t) :
    ∃ s', M.step s = .next s' ∧ M.run k s' = .next t := by
  rw [Host.Core.run] at h
  split at h
  · next s' hs => exact ⟨s', hs, h⟩
  · cases h
  · cases h

/-- However many steps are taken, the call in flight is the same one. -/
theorem run_waits {k : Nat} {s t : State} (hc : s.ctl = .busy)
    (he : ∀ e ∈ s.inputs, e.isReturn = false ∧ e.isReset = false)
    (h : Host.Core.run Sys2Proof.core k s = .next t) : SameCall s t := by
  induction k generalizing s with
  | zero => cases h; exact .refl _
  | succ k ih =>
    obtain ⟨s', hs, hk⟩ := run_succ (M := core) h
    obtain ⟨same, rest⟩ := step_waits hc he hs
    exact same.trans (ih (same.ctl.trans hc) rest hk)

/-- Settles O11: no event but a return or block reset moves the controller, and block reset enters the abandoned call
in the trace. -/
theorem blockedPrimitiveLeavesOnlyByReset : Obligations.BlockedPrimitiveLeavesOnlyByReset := by
  unfold Obligations.BlockedPrimitiveLeavesOnlyByReset
  refine ⟨fun k s t hc he h => ?_, ?_⟩
  · have same := run_waits hc he h
    have calls := same.calls
    rw [same] at calls ⊢
    exact ⟨hc, rfl, rfl, rfl, rfl, calls⟩
  · rintro s es hc ⟨i, hd⟩ hi
    refine ⟨_, (step_lands hc hi hd).trans rfl, State.blockReset_ctl _, ?_⟩
    rw [State.calls_idle (State.blockReset_ctl _), State.calls_busy hc hd, State.blockReset_trace, State.abandon_trace,
      planOf_prim_inputs]

/-! ### The primitives of the transport (R101) -/

/-- The primitive in flight is one of the transport's. -/
theorem InFlight.prim_allowed {s : State} {i : Instr} (f : InFlight s i) :
    ((planOf i).prim s).allowed s.cfg = true := by
  have hst := f.step
  unfold Plan.prim
  cases hs : s.step with
  | aXfer =>
    have ht : s.cfg.transport = .addressed := by
      cases ht : s.cfg.transport with
      | framed => rw [hs, ht] at hst; cases hst
      | addressed => rfl
    cases s.phase <;> simp [Prim.allowed, ht]
  | _ => simp [Prim.allowed, f.framed (by simp [hs])]

/-- The trace grows by primitives of the transport in use, which does not change. -/
structure AddsAllowed (s t : State) : Prop where
  cfg : t.cfg = s.cfg
  trace : ∃ tr, t.trace = s.trace ++ tr ∧ ∀ x ∈ tr, x.prim.allowed s.cfg = true

theorem AddsAllowed.of_same {s t : State} (cfg : t.cfg = s.cfg) (trace : t.trace = s.trace) : AddsAllowed s t :=
  ⟨cfg, [], by simp [trace], nofun⟩

theorem AddsAllowed.of_call {s t : State} {x : PhyEvent} (cfg : t.cfg = s.cfg) (trace : t.trace = s.trace ++ [x])
    (hx : x.prim.allowed s.cfg = true) : AddsAllowed s t :=
  ⟨cfg, [x], trace, by simpa using hx⟩

theorem AddsAllowed.trans {s t u : State} (h : AddsAllowed s t) (h' : AddsAllowed t u) : AddsAllowed s u := by
  obtain ⟨cfg, tr, trace, allowed⟩ := h
  obtain ⟨cfg', tr', trace', allowed'⟩ := h'
  refine ⟨cfg'.trans cfg, tr ++ tr', by rw [trace', trace, List.append_assoc], fun x hx => ?_⟩
  rw [cfg] at allowed'
  exact (List.mem_append.1 hx).elim (allowed x) (allowed' x)

/-- One event adds the call in flight to the trace, if it ends it, and nothing else. -/
theorem InFlight.land_adds {s t : State} {i : Instr} {e : Event} (f : InFlight s i)
    (hl : land (planOf i) e s = .next t) : AddsAllowed s t := by
  obtain ⟨_, _, _, -, rfl⟩ | ⟨_, _, -, rfl⟩ | ⟨-, rfl⟩ | ⟨_, _, -, rfl⟩ | ⟨rep, s', hp, rfl⟩ := land_cases hl
  · split <;> exact .of_same rfl rfl
  · exact .of_same rfl rfl
  · exact .of_call (x := ⟨(planOf i).prim s, none⟩) (by simp) (by simp) f.prim_allowed
  · exact .of_same rfl rfl
  · obtain ⟨-, -, hs'⟩ := perform_spec hp
    have moved := planOf_advance_observation i rep s'
    exact .of_call (by rw [moved.cfg, hs']) (by rw [moved.trace, hs']) f.prim_allowed

/-- A run of a legal command adds primitives of the transport only. -/
theorem exec_addsAllowed {s t : State} {i : Instr} {w : Word} (h : Invariant s) (hc : s.ctl = .idle)
    (hd : decode s.cfg.maxBurst w = .ok i) (hx : exec i s = .next t) : AddsAllowed s t := by
  have hw := wf_of_decode hd
  rw [← encode_of_decode hd] at hd
  rw [exec_idle hc hw] at hx
  refine (drive_keeps (P := fun u => Invariant u ∧ InFlightIs i u ∧ AddsAllowed s u) ?_ hx
    ⟨h.startCommand hc hd, fun _ => hd, .of_same rfl rfl⟩).2.2
  rintro e es u v hb ⟨hu, cmd, adds⟩ hl
  have hu' : Invariant { u with inputs := es } := hu.outside (sameBlock_inputs u es) hu.device
  have added := (hu'.inFlight_of_decode hb (cmd hb)).land_adds hl
  exact ⟨hu'.land hb (cmd hb) hl, inFlightIs_land hl (cmd hb), adds.trans ⟨added.cfg, added.trace⟩⟩

/-- An event beside the idle block adds no primitive, and leaves it idle. -/
theorem bystander_adds_nothing {e : Event} {s t : State} (hc : s.ctl = .idle) (h : bystander e s = .next t) :
    t.cfg = s.cfg ∧ t.trace = s.trace ∧ t.ctl = .idle := by
  obtain ⟨_, _, _, -, rfl⟩ | ⟨_, _, -, rfl⟩ | ⟨-, rfl⟩ | ⟨_, _, -, rfl⟩ := bystander_cases h
  · exact ⟨rfl, rfl, hc⟩
  · exact ⟨rfl, rfl, hc⟩
  · exact ⟨by simp, by simp, by simp⟩
  · exact ⟨rfl, rfl, hc⟩

/-- Settles O33: while a command is in flight its step is one of the transport's; nothing else adds to the trace. -/
theorem onlyTheTransportsPrimitives : Obligations.OnlyTheTransportsPrimitives := by
  unfold Obligations.OnlyTheTransportsPrimitives
  refine ⟨fun s t h hstep => ?_, configWord_transport⟩
  have rest (es : List Event) : Invariant { s with inputs := es } := h.outside (sameBlock_inputs s es) h.device
  have adds : AddsAllowed s t := by
    obtain ⟨-, rfl⟩ | ⟨e, es, -, hc, hidle⟩ | ⟨e, es, i, -, hb, hd, hl⟩ := step_cases hstep
    · exact .of_same rfl rfl
    · obtain ⟨w, i, -, hd, hx⟩ | ⟨w, r, -, -, rfl⟩ | hby := hidle
      · obtain ⟨cfg, trace⟩ := exec_addsAllowed (rest es) hc hd hx
        exact ⟨cfg, trace⟩
      · exact .of_same rfl rfl
      · obtain ⟨cfg, trace, -⟩ := bystander_adds_nothing (s := { s with inputs := es }) hc hby
        exact .of_same cfg trace
    · obtain ⟨cfg, trace⟩ := ((rest es).inFlight_of_decode hb hd).land_adds hl
      exact ⟨cfg, trace⟩
  exact ⟨congrArg Config.transport adds.cfg, adds.trace⟩

/-- Settles O34: of what a step of the idle block can be, only a legal command word begins a transaction. -/
theorem idleBlockPerformsNoPrimitive : Obligations.IdleBlockPerformsNoPrimitive := by
  unfold Obligations.IdleBlockPerformsNoPrimitive
  intro s t hc legal hstep
  obtain ⟨-, rfl⟩ | ⟨e, es, hi, -, ⟨w, i, rfl, hd, -⟩ | ⟨w, r, -, -, rfl⟩ | hby⟩ | ⟨_, _, _, -, hb, -⟩ := step_cases hstep
  · exact ⟨rfl, hc⟩
  · exact absurd hd (legal w es i hi)
  · exact ⟨rfl, rfl⟩
  · exact (bystander_adds_nothing (s := { s with inputs := es }) hc hby).2
  · cases hc.symm.trans hb

end Sys2Proof.Machine
end

section
/-! PROOFS. The inputs without a meaning, each refused by its name (R6, R65, R100, R102, R119). -/

namespace Sys2Proof.Machine

/-! ### What a call in flight refuses -/

section
variable {reg : RegAddr} {pr : Prim} {s : State}

theorem perform_wrongLength {R : List Byte} (hd : pr.isDelay = false) (h : R.length ≠ pr.expects) :
    perform reg pr (.answer (.okBytes R)) s = .error .wrongLength := by
  simp [perform, answered, hd, h]

theorem perform_foreignNativeError {e : Nat} (hd : pr.isDelay = false) (h : s.cfg.eNative.has e = false) :
    perform reg pr (.answer (.err e)) s = .error .foreignNativeError := by
  simp [perform, answered, hd, h]

theorem perform_clock_unasked (hd : pr.isDelay = false) : perform reg pr .clock s = .error .unaskedReturn := by
  simp [perform, hd]

theorem perform_answer_unasked {a : Answer} (hd : pr.isDelay = true) :
    perform reg pr (.answer a) s = .error .unaskedReturn := by
  simp [perform, hd]

end

/-- A return that the call in flight refuses is refused by the step. -/
theorem step_refuses {s : State} {e : Event} {es : List Event} {i : Instr} {r : Refusal} (hc : s.ctl = .busy)
    (hd : decode s.cfg.maxBurst s.cmd = .ok i) (hi : s.inputs = e :: es) (he : e.isReturn = true)
    (h : ∀ u : State, u.cfg = s.cfg → perform (planOf i).reg ((planOf i).prim s) e u = .error r) :
    step s = .refused r := by
  rw [step_lands hc hi hd]
  exact land_of_perform_error he (by rw [planOf_prim_inputs]; exact h _ rfl)

/-- An Ok with a wrong number of bytes, to the first read transaction of a command. -/
theorem exec_wrongLength {s : State} {es : List Event} {i : Instr} {R : List Byte} (hc : s.ctl = .idle)
    (hw : i.wf s.cfg.maxBurst = true) (hp : hasPhase i .read = true) (hR : R.length ≠ (planOf i).count) :
    (s.cfg.transport = .addressed → s.inputs = .answer (.okBytes R) :: es → exec i s = .refused .wrongLength) ∧
    (s.cfg.transport = .framed →
      s.inputs = ([.answer .ok, .clock, .answer .ok, .answer (.okBytes R)] : List Event) ++ es →
      exec i s = .refused .wrongLength) := by
  rw [exec_idle hc hw, startCommand_eq_startTxn, planOf_first_read hp]
  refine ⟨fun ht hi => ?_, fun ht hi => ?_⟩
  · have hs : (State.startTxn .read (accepted i s)).step = .aXfer := by simp [State.startTxn_step, accepted, ht]
    have expects := (planOf i).prim_expects (s := State.startTxn .read (accepted i s)) (.inr ⟨hs, rfl⟩)
    rw [hi]
    refine drive_refused rfl (land_of_perform_error rfl ?_)
    rw [planOf_prim_inputs]
    exact perform_wrongLength (by simp [Plan.prim, hs, Prim.isDelay]) (by rwa [expects])
  · rw [hi]
    simp only [List.cons_append, List.nil_append]
    rw [drive_selected (s := accepted i s) rfl ht, drive_fSend_read rfl rfl rfl]
    refine drive_refused rfl (land_of_perform_error rfl (perform_wrongLength rfl ?_))
    simpa [Plan.prim, Prim.expects] using hR

/-- Settles O50: each input by the refusal of the call it is made to, or of the idle block. -/
theorem inputsOutsideTheInterfaceAreRefused : Obligations.InputsOutsideTheInterfaceAreRefused := by
  unfold Obligations.InputsOutsideTheInterfaceAreRefused
  refine ⟨fun s es i R hc hw hp hR => exec_wrongLength hc hw hp hR, fun s es i hc hd => ⟨fun hdelay => ?_, ?_⟩,
    fun s es hc => ⟨?_, ?_⟩, fun s es h hi => ?_⟩
  · exact ⟨fun R hR hi => step_refuses hc hd hi rfl fun _ _ => perform_wrongLength hdelay hR,
      fun e he hi => step_refuses hc hd hi rfl fun _ hu => perform_foreignNativeError hdelay (by rw [hu]; exact he),
      fun hi => step_refuses hc hd hi rfl fun _ _ => perform_clock_unasked hdelay⟩
  · exact fun hdelay a hi => step_refuses hc hd hi rfl fun _ _ => perform_answer_unasked hdelay
  · exact fun a hi => step_bystander hc hi nofun
  · exact fun hi => step_bystander hc hi nofun
  · obtain hc | hc := s.idle_or_busy
    · exact step_bystander hc hi nofun
    · obtain ⟨i, f⟩ := h.inFlight hc
      exact step_lands hc hi f.command

end Sys2Proof.Machine
end

section
/-! PROOFS. The command word is read by the decoder and by block reset only, so two commands that ask the same of the
sequencer run alike (R22, R134, R241). -/

namespace Sys2Proof.Machine

/-- The state with another word in `cmd`, which no host register shows (R24). -/
def State.withCmd (w : Word) (s : State) : State := { s with cmd := w }

/-! ### What the block and the outside do commutes with a change of the word -/

section
variable (w : Word) (s : State)

@[simp] theorem State.withCmd_step : (s.withCmd w).step = s.step := rfl
@[simp] theorem State.withCmd_phase : (s.withCmd w).phase = s.phase := rfl
@[simp] theorem State.withCmd_firstErr : (s.withCmd w).firstErr = s.firstErr := rfl

theorem State.heardWrite_withCmd (sure : Bool) (bytes : List Byte) (rep : Reply) :
    (s.withCmd w).heardWrite sure bytes rep = (s.heardWrite sure bytes rep).withCmd w := by
  unfold State.heardWrite
  split
  · split <;> rfl
  · rfl

theorem State.returned_withCmd (pr : Prim) (rep : Reply) :
    (s.withCmd w).returned pr rep = (s.returned pr rep).withCmd w := by
  have wire : (s.withCmd w).wire pr rep = (s.wire pr rep).withCmd w := by
    cases pr with
    | assertCs | releaseCs => cases rep <;> rfl
    | send bytes | addrSend _ bytes => exact s.heardWrite_withCmd w _ bytes rep
    | exchange | addrSendRecv | delayUs => rfl
  rw [State.returned, wire]
  rfl

/-- The transport's answer does not depend on the command word. -/
theorem answered_withCmd (reg : RegAddr) (pr : Prim) (a : Answer) :
    answered reg pr a (s.withCmd w) = (answered reg pr a s).map (Prod.map id (State.withCmd w)) := by
  have returned (rep : Reply) (u : State) :
      Except.ok (rep, (u.withCmd w).returned pr rep) =
        (Except.ok (ε := Refusal) (rep, u.returned pr rep)).map (Prod.map id (State.withCmd w)) :=
    congrArg (fun u => Except.ok (rep, u)) (u.returned_withCmd w pr rep)
  cases a with
  | err e =>
    show (if s.cfg.eNative.has e then _ else _) = Except.map _ (if s.cfg.eNative.has e then _ else _)
    split
    · exact returned _ s
    · rfl
  | okBytes R =>
    simp only [answered]
    split
    · exact returned _ s
    · rfl
  | ok =>
    show (if s.deviceHeard then _ else _) = Except.map _ (if s.deviceHeard then _ else _)
    split
    · exact returned _ s
    · exact returned _ (s.drawn pr.expects)

theorem perform_withCmd (reg : RegAddr) (pr : Prim) (e : Event) :
    perform reg pr e (s.withCmd w) = (perform reg pr e s).map (Prod.map id (State.withCmd w)) := by
  cases e with
  | clock =>
    simp only [perform]
    split
    · exact congrArg (fun u => Except.ok (Reply.ok [], u)) (s.returned_withCmd w pr _)
    · rfl
  | answer a =>
    simp only [perform]
    split
    · rfl
    · exact answered_withCmd w s reg pr a
  | hostWrite | hostRead | blockReset | device | otherMaster => rfl

theorem planOf_prim_withCmd (i : Instr) : (planOf i).prim (s.withCmd w) = (planOf i).prim s := by
  cases i <;> rfl

theorem planOf_endTxn_withCmd (i : Instr) :
    (planOf i).endTxn (s.withCmd w) = ((planOf i).endTxn s).withCmd w := by
  unfold Plan.endTxn
  rw [State.withCmd_firstErr]
  cases s.firstErr with
  | none =>
    cases i with
    | setf => simp only [planOf, planSetf, State.withCmd_phase]; split <;> rfl
    | write | read | reads => rfl
  | some => cases i <;> rfl

theorem planOf_advance_withCmd (i : Instr) (rep : Reply) :
    (planOf i).advance rep (s.withCmd w) = ((planOf i).advance rep s).withCmd w := by
  have unsure : (planOf i).unsureWrite (s.withCmd w) = ((planOf i).unsureWrite s).withCmd w := by
    unfold Plan.unsureWrite
    rw [State.withCmd_phase]
    split <;> rfl
  unfold Plan.advance
  rw [State.withCmd_step, unsure]
  cases s.step with
  | fSettle1 => rfl
  | fSend | fExch | fRelease => cases rep <;> rfl
  | fSettle2 => exact planOf_endTxn_withCmd w s i
  | fAssert =>
    cases rep with
    | ok => rfl
    | err e => exact planOf_endTxn_withCmd w { (planOf i).unsureWrite s with firstErr := some (.chipSelect, e) } i
  | aXfer =>
    cases rep with
    | ok R => exact planOf_endTxn_withCmd w { s with step := .aXfer, rx := R } i
    | err e => exact planOf_endTxn_withCmd w { s with step := .aXfer, firstErr := some (.bus, e) } i

end

/-! ### One event, a whole run, and two commands with one plan -/

/-- Block reset clears the word, of which it uses the register of a write in flight (R241). -/
theorem State.blockReset_withCmd {w : Word} {s : State} (hw : regField w = regField s.cmd) :
    (s.withCmd w).blockReset = s.blockReset := by
  unfold State.blockReset
  show (if s.ctl = .busy ∧ s.phase = .write then ((s.withCmd w).devUnspecified (regField w)).resetBlock else _) = _
  rw [hw]
  rfl

/-- One event does the same whatever the word, or leaves it standing; block reset clears it. -/
theorem land_withCmd {w : Word} {s : State} (i : Instr) (e : Event) (hw : regField w = regField s.cmd) :
    land (planOf i) e (s.withCmd w) = land (planOf i) e s ∨
      land (planOf i) e (s.withCmd w) = mapNext (State.withCmd w) (land (planOf i) e s) := by
  cases e with
  | hostWrite => exact .inr (by simp only [land, mapNext]; split <;> rfl)
  | hostRead | device | otherMaster => exact .inr rfl
  | blockReset =>
    have reset := State.blockReset_withCmd (s := s.abandon ((planOf i).prim s)) hw
    refine .inl ?_
    simp only [land, planOf_prim_withCmd, ← reset]
    rfl
  | answer | clock =>
    refine .inr ?_
    simp only [land, planOf_prim_withCmd, perform_withCmd]
    cases perform (planOf i).reg ((planOf i).prim s) _ s with
    | ok x => exact congrArg Host.Outcome.next (planOf_advance_withCmd w x.2 i x.1)
    | error => rfl

/-- A run does not depend on the command word, but for the register that a block reset finds there. -/
theorem drive_withCmd (i : Instr) (l : List Event) {w : Word} {s : State} (hw : regField w = regField s.cmd) :
    mapNext State.withoutCmd (drive (planOf i) l (s.withCmd w)) = mapNext State.withoutCmd (drive (planOf i) l s) := by
  induction l generalizing s with
  | nil => rfl
  | cons e es ih =>
    obtain hc | hc := s.idle_or_busy
    · rw [drive_idle _ _ hc, drive_idle _ _ (by exact hc)]
      rfl
    rw [drive_busy _ _ _ hc, drive_busy _ _ _ (by exact hc)]
    have word : { s.withCmd w with inputs := es } = State.withCmd w { s with inputs := es } := rfl
    rw [word]
    obtain same | moved := land_withCmd (s := { s with inputs := es }) i e hw
    · rw [same]
    · rw [moved]
      cases hl : land (planOf i) e { s with inputs := es } with
      | next u =>
        obtain hu | hu := land_idle_or_cmd hl
        · simp only [mapNext, drive_idle _ _ hu, drive_idle _ _ (s := u.withCmd w) hu]
          rfl
        · exact ih (hw.trans (congrArg regField hu.symm))
      | fault | refused => rfl

/-- Two commands that ask the same of the sequencer have the same outcome, but for the command word. -/
theorem exec_eq_of_planOf_eq {i j : Instr} {s : State} (hp : planOf i = planOf j)
    (hw : i.wf s.cfg.maxBurst = j.wf s.cfg.maxBurst) :
    mapNext State.withoutCmd (exec i s) = mapNext State.withoutCmd (exec j s) := by
  obtain hc | hc := s.idle_or_busy
  · cases hj : j.wf s.cfg.maxBurst with
    | false => rw [exec_illformed hc hj, exec_illformed hc (hw.trans hj)]
    | true =>
      have reg : regField (encode i) = regField (encode j) := by
        rw [regField_encode, regField_encode, ← planOf_reg, ← planOf_reg, hp]
      rw [exec_idle hc hj, exec_idle hc (hw.trans hj), hp]
      exact drive_withCmd j s.inputs (s := s.clearRecord.startCommand (encode j) (planOf j).first) reg
  · rw [exec_busy i hc, exec_busy j hc]

/-- Settles O35: READ asks of the sequencer what READS of one byte asks. -/
theorem readIsReadsOfOne : Obligations.ReadIsReadsOfOne := by
  unfold Obligations.ReadIsReadsOfOne
  intro s reg one
  exact exec_eq_of_planOf_eq rfl (by simpa [Instr.wf] using one)

end Sys2Proof.Machine
end

section
/-! PROOFS. READ with every primitive Ok, and what it brings after a WRITE of the same register (R133, R139). -/

namespace Sys2Proof.Machine

section
variable {s : State} {es : List Event} {reg : RegAddr}

/-- READ through its read transaction. -/
theorem exec_read_ok {x : Answer} {b : Byte} (hc : s.ctl = .idle) (hb : brings s reg 1 x [b])
    (hi : s.inputs = readReturns s.cfg.transport x ++ es) :
    exec (.read reg) s =
      .next (State.complete .none 0 (State.storeReceived (State.afterTxn .read [b] (readTrace s.cfg reg 1 [b])
        { accepted (.read reg) s with inputs := es }))) := by
  rw [exec_idle hc rfl, startCommand_eq_startTxn, hi]
  refine (drive_readTxn (p := planRead reg) (s := accepted (.read reg) s) es rfl hb).trans ?_
  exact drive_idle _ _ rfl

/-- What a READ that completes leaves. -/
theorem exec_read_completes {x : Answer} {b : Byte} (hc : s.ctl = .idle) (hcs : s.csAsserted = false)
    (hb : brings s reg 1 x [b]) (hi : s.inputs = readReturns s.cfg.transport x ++ es) :
    ∃ t, exec (.read reg) s = .next t ∧ Completed s t .none 0 es ∧ t.trace = s.trace ++ readTrace s.cfg reg 1 [b] ∧
      t.rbuf = b :: s.rbuf.drop 1 ∧ t.rmwLatch = s.rmwLatch ∧ t.dev = s.dev :=
  ⟨_, exec_read_ok hc hb hi, completed_complete rfl (by simp [accepted, hcs]) rfl rfl, rfl, rfl, rfl, rfl⟩

end

/-- Settles O21: on each transport the trace is that of its read transaction of one byte. -/
theorem readCompletes : Obligations.ReadCompletes := by
  unfold Obligations.ReadCompletes
  intro s es reg x b hc hcs hb
  refine ⟨fun ht hi => ?_, fun ht hi => ?_⟩
  all_goals
    obtain ⟨t, hx, done, trace, rest⟩ := exec_read_completes hc hcs hb (by rw [ht]; exact hi)
    simp only [readTrace, ht] at trace
    exact ⟨t, hx, done, trace, rest⟩

/-! ### A command word with its returns -/

/-- The events of a legal command whose every primitive answers Ok. -/
theorem cmdEvents_encode {c : Config} {i : Instr} (hc : c.wf) (hi : i.wf c.maxBurst = true) :
    cmdEvents c (encode i) = .hostWrite 32 0 (encode i) :: okReturns c.transport i := by
  obtain ⟨-, -, burst, -⟩ := hc
  rw [cmdEvents, decode_encode (by omega) hi]

/-- The step that takes such a command's word runs the command on its returns. -/
theorem step_cmdEvents {s : State} {i : Instr} {es : List Event} (hc : s.ctl = .idle) (hcfg : s.cfg.wf)
    (hw : i.wf s.cfg.maxBurst = true) (hi : s.inputs = cmdEvents s.cfg (encode i) ++ es) :
    step s = exec i { s with inputs := okReturns s.cfg.transport i ++ es } := by
  rw [cmdEvents_encode hcfg hw] at hi
  obtain ⟨-, -, burst, -⟩ := hcfg
  exact step_command hc hi (decode_encode (by omega) hw)

@[simp] theorem State.complete_deviceHeard (k : ErrKind) (e : Nat) (s : State) :
    (s.complete k e).deviceHeard = s.deviceHeard := rfl

/-- STATUS of a command that has completed without error: DONE alone (R25, R214). -/
theorem Status.toWord_completed (s : Status) : (Status.completed .none { s.cleared with busy := true }).toWord = 2 := by
  show Status.toWord ⟨false, true, false, .none, false⟩ = 2
  decide

/-- What a WRITE leaves that the device has heard: the byte is in the register, and the device hears what comes next. -/
theorem exec_write_heard {s : State} {es : List Event} {reg : RegAddr} {v : Byte} (hc : s.ctl = .idle)
    (hdev : s.dev.wf) (heard : s.deviceHeard = true) (hi : s.inputs = okTxn s.cfg.transport .write ++ es) :
    ∃ t, exec (.write reg v) s = .next t ∧ t.ctl = .idle ∧ t.cfg = s.cfg ∧ t.inputs = es ∧ t.deviceHeard = true ∧
      t.devRead reg = v := by
  have read := State.devRead_heardWrite (s := { accepted (.write reg v) s with inputs := es }) hdev reg reg v
  rw [if_pos rfl] at read
  refine ⟨_, exec_write_ok hc hi, rfl, ?_⟩
  rw [heard]
  exact ⟨rfl, rfl, (State.complete_deviceHeard ..).trans (State.afterTxn_deviceHeard ..), read⟩

/-- Settles O39: the device that heard the WRITE holds the byte, and sends it to the READ. -/
theorem roundTripOnTheReferenceDevice : Obligations.RoundTripOnTheReferenceDevice := by
  unfold Obligations.RoundTripOnTheReferenceDevice
  intro s reg v es hc hcfg hdev hl hi
  rw [List.append_assoc] at hi
  obtain ⟨t, ht, idle, cfg, inputs, heard, held⟩ := exec_write_heard (reg := reg) (v := v)
    (s := { s with inputs := okReturns s.cfg.transport (.write reg v) ++ (cmdEvents s.cfg (encode (.read reg)) ++ es) })
    hc hdev (by simp [State.deviceHeard, hl]) rfl
  have brought : brings t reg 1 .ok [v] := .inr ⟨rfl, heard, by rw [State.devBurst_one, held]⟩
  have hcfg' : t.cfg.wf := cfg ▸ hcfg
  have read := step_cmdEvents (i := .read reg) idle hcfg' rfl (inputs.trans (by rw [cfg]))
  refine ⟨t, _, (step_cmdEvents hc hcfg rfl hi).trans ht,
    read.trans (exec_read_ok (by exact idle) brought (congrArg (· ++ es) (okTxn_read t.cfg.transport))), rfl,
    Status.toWord_completed t.status⟩

end Sys2Proof.Machine
end

section
/-! PROOFS. WRITE, READ and READS perform one transaction each: the trace of the transaction in flight, step by step, and
its shape at the end (R105, R106, R110, R113, R138). -/

namespace Sys2Proof.Machine

/-! ### The transaction in flight -/

/-- What the transaction in flight has added to the trace when the controller is at a step (R105, R106, R110). -/
inductive InTxn (c : Config) : TxnStep → List PhyEvent → Prop where
  | toAssert (ht : c.transport = .framed) : InTxn c .fAssert []
  | asserted (ht : c.transport = .framed) (R : List Byte) : InTxn c .fSettle1 [⟨.assertCs, some (.ok R)⟩]
  | settled (ht : c.transport = .framed) (R : List Byte) (d : Reply) :
      InTxn c .fSend [⟨.assertCs, some (.ok R)⟩, ⟨.delayUs c.tSettleUs, some d⟩]
  | sent (ht : c.transport = .framed) (R : List Byte) (d : Reply) (x : PhyEvent) (hx : x.prim.isBody = true) :
      InTxn c .fExch [⟨.assertCs, some (.ok R)⟩, ⟨.delayUs c.tSettleUs, some d⟩, x]
  | bodyDone (ht : c.transport = .framed) (R : List Byte) (d : Reply) (body : List PhyEvent)
      (h : ∀ x ∈ body, x.prim.isBody = true) (ne : body ≠ []) :
      InTxn c .fRelease (⟨.assertCs, some (.ok R)⟩ :: ⟨.delayUs c.tSettleUs, some d⟩ :: body)
  | released (ht : c.transport = .framed) (R : List Byte) (d : Reply) (body : List PhyEvent) (r : Reply)
      (h : ∀ x ∈ body, x.prim.isBody = true) (ne : body ≠ []) :
      InTxn c .fSettle2 (⟨.assertCs, some (.ok R)⟩ :: ⟨.delayUs c.tSettleUs, some d⟩ :: body ++ [⟨.releaseCs, some r⟩])
  | toTransfer (ht : c.transport = .addressed) : InTxn c .aXfer []

/-- The one transaction of a command: in flight while BUSY, and whole once the command is over. -/
def TxnSoFar (c : Config) (s : State) (tr : List PhyEvent) : Prop :=
  s.ctl = .busy ∧ InTxn c s.step tr ∨ s.ctl = .idle ∧ TxnShape c tr

theorem inTxn_startTxn (ph : Phase) (s : State) : InTxn s.cfg (State.startTxn ph s).step [] := by
  rw [State.startTxn_step]
  cases ht : s.cfg.transport with
  | framed => exact .toAssert ht
  | addressed => exact .toTransfer ht

/-- Every command but SETF is over at the end of its transaction. -/
theorem planOf_endTxn_idle {i : Instr} (hi : hasPhase i .read = true → hasPhase i .write = false) (s : State) :
    ((planOf i).endTxn s).ctl = .idle := by
  unfold Plan.endTxn
  cases i with
  | setf => cases hi rfl
  | write | read | reads => split <;> rfl

theorem txnShape_framed {c : Config} {tr : List PhyEvent} (ht : c.transport = .framed)
    (h : FramedShape c.tSettleUs tr) : TxnShape c tr := by
  simpa only [TxnShape, ht] using h

theorem txnShape_addressed {c : Config} {tr : List PhyEvent} (ht : c.transport = .addressed)
    (h : AddressedShape c.devAddr tr) : TxnShape c tr := by
  simpa only [TxnShape, ht] using h

/-- The controller's move after the primitive in flight has entered the trace. -/
theorem InTxn.advance {i : Instr} (hi : hasPhase i .read = true → hasPhase i .write = false) {s : State} (rep : Reply)
    {tr : List PhyEvent} (hc : s.ctl = .busy) (h : InTxn s.cfg s.step tr) :
    TxnSoFar s.cfg ((planOf i).advance rep s) (tr ++ [⟨(planOf i).prim s, some rep⟩]) := by
  have unsure : ((planOf i).unsureWrite s).ctl = .busy := by rw [Plan.unsureWrite_eq]; exact hc
  unfold Plan.advance Plan.prim
  generalize s.step = st at h ⊢
  cases h with
  | toAssert ht =>
    cases rep with
    | ok R => exact .inl ⟨hc, .asserted ht R⟩
    | err e => exact .inr ⟨planOf_endTxn_idle hi _, txnShape_framed ht (.assertFailed e)⟩
  | asserted ht R => exact .inl ⟨hc, .settled ht R rep⟩
  | settled ht R d =>
    have bodyDone := InTxn.bodyDone ht R d [⟨.send ((planOf i).header s), some rep⟩]
      (List.forall_mem_singleton.2 rfl) nofun
    cases rep with
    | ok R' =>
      cases hp : s.phase with
      | read => exact .inl ⟨hc, .sent ht R d _ rfl⟩
      | write => exact .inl ⟨hc, bodyDone⟩
    | err e => exact .inl ⟨hc, bodyDone⟩
  | sent ht R d x hx =>
    have bodyDone := InTxn.bodyDone ht R d [x, ⟨.exchange (List.replicate (planOf i).count 0), some rep⟩]
      (List.forall_mem_cons.2 ⟨hx, List.forall_mem_singleton.2 rfl⟩) nofun
    cases rep with
    | ok | err => exact .inl ⟨hc, bodyDone⟩
  | bodyDone ht R d body h ne =>
    have released := InTxn.released ht R d body rep h ne
    cases rep with
    | ok => exact .inl ⟨hc, released⟩
    | err => exact .inl ⟨unsure, released⟩
  | released ht R d body r h ne =>
    refine .inr ⟨planOf_endTxn_idle hi s, txnShape_framed ht ?_⟩
    simpa using FramedShape.bracket R body r d rep h ne
  | toTransfer ht =>
    refine .inr ⟨?_, txnShape_addressed ht ?_⟩
    · cases rep <;> exact planOf_endTxn_idle hi _
    · cases s.phase with
      | read => exact .sendRecv _ _ rep
      | write => exact .send _ rep

/-! ### One event, and a whole run -/

/-- `u` is reached from `s` in the course of one transaction. -/
structure OneTxn (s u : State) : Prop where
  cfg : u.cfg = s.cfg
  trace : ∃ tr, u.trace = s.trace ++ tr ∧ TxnSoFar s.cfg u tr

/-- An event but block reset leaves the transaction where it is, or moves it on by the primitive that returned. -/
theorem OneTxn.land {i : Instr} {e : Event} {s u v : State} (h : OneTxn s u) (hc : u.ctl = .busy)
    (hi : hasPhase i .read = true → hasPhase i .write = false) (he : e.isReset = false)
    (hl : land (planOf i) e u = .next v) : OneTxn s v := by
  obtain ⟨cfg, tr, trace, txn⟩ := h
  obtain ⟨_, _, _, -, rfl⟩ | ⟨_, _, -, rfl⟩ | ⟨rfl, -⟩ | ⟨_, _, -, rfl⟩ | ⟨rep, u', hp, rfl⟩ := land_cases hl
  · split <;> exact ⟨cfg, tr, trace, txn⟩
  · exact ⟨cfg, tr, trace, txn⟩
  · cases he
  · exact ⟨cfg, tr, trace, txn⟩
  · obtain ⟨-, -, hu'⟩ := perform_spec hp
    obtain ⟨cfg', ctl', step', trace'⟩ : u'.cfg = s.cfg ∧ u'.ctl = .busy ∧ u'.step = u.step ∧
        u'.trace = u.trace ++ [⟨(planOf i).prim u', some rep⟩] := by
      rw [hu']
      exact ⟨cfg, hc, rfl, by cases i <;> rfl⟩
    obtain ⟨-, inTxn⟩ | ⟨hidle, -⟩ := txn
    · have seen := planOf_advance_observation i rep u'
      have moved := InTxn.advance hi rep ctl' (by rw [cfg', step']; exact inTxn)
      rw [cfg'] at moved
      exact ⟨seen.cfg.trans cfg', _, by rw [seen.trace, trace', trace, List.append_assoc], moved⟩
    · cases hc.symm.trans hidle

/-- Settles O31: the run stays on the course of one transaction, which is whole once the block is IDLE again; an ILLEGAL
word completes at once. -/
theorem oneTransactionPerCommand : Obligations.OneTransactionPerCommand := by
  unfold Obligations.OneTransactionPerCommand
  refine ⟨fun s t i hc hw hi he hx hidle => ?_, ?_⟩
  · rw [exec_idle hc hw] at hx
    have start : OneTxn s (s.clearRecord.startCommand (encode i) (planOf i).first) :=
      ⟨rfl, [], (List.append_nil _).symm, .inl ⟨rfl, inTxn_startTxn _ (accepted i s)⟩⟩
    obtain ⟨-, tr, trace, ⟨hb, -⟩ | ⟨-, shape⟩⟩ := drive_keeps_of_mem_busy (P := OneTxn s)
      (fun e hmem es u v hb hu hl => OneTxn.land (u := { u with inputs := es }) ⟨hu.cfg, hu.trace⟩ hb hi (he e hmem) hl)
      hx start
    · cases hidle.symm.trans hb
    · exact ⟨tr, trace, shape⟩
  · rintro s t w es hc hinputs ⟨r, hd⟩ hstep
    rw [step_illegal hc hinputs hd] at hstep
    cases hstep
    rfl

end Sys2Proof.Machine
end

section
/-! PROOFS. The field of SETF, bit by bit: the mask, the merge, and what a second merge adds (R151 to R153, R160, R161). -/

namespace Sys2Proof.Machine

/-- The mask has ones below the width (R151). -/
theorem getLsbD_fmask (w k : Nat) : (fmask w).getLsbD k = decide (k < 8 ∧ k < w) := by
  simp [fmask, BitVec.getLsbD_ofNat, Nat.testBit_two_pow_sub_one]

/-- The merged byte has the value's bits in the field and the old bits outside it (R151, R153). -/
theorem getLsbD_merge (old v : Byte) (off w k : Nat) :
    (merge old off w v).getLsbD k =
      if off ≤ k ∧ k < off + w ∧ k < 8 then v.getLsbD (k - off) else old.getLsbD k := by
  simp only [merge, BitVec.getLsbD_or, BitVec.getLsbD_and, BitVec.getLsbD_not, BitVec.getLsbD_shiftLeft, getLsbD_fmask]
  split
  case isTrue inside =>
    simp [inside, show ¬ k < off by omega, show k - off < w by omega, show k - off < 8 by omega]
  case isFalse outside =>
    by_cases hk : k < 8
    · by_cases low : k < off
      · simp [hk, low]
      · simp [hk, show ¬ k - off < w by omega]
    · simp [hk, BitVec.getLsbD_of_ge old k (by omega)]

/-- Settles O37: each bit of the merged byte is the value's or the old one. -/
theorem mergeKeepsBitsOutsideTheField : Obligations.MergeKeepsBitsOutsideTheField := by
  unfold Obligations.MergeKeepsBitsOutsideTheField
  intro old v off w h1 h8
  refine ⟨fun k hk outside => ?_, ?_, rfl⟩
  · rw [getLsbD_merge, if_neg (by omega)]
  · refine BitVec.eq_of_getLsbD_eq fun k hk => ?_
    rw [BitVec.getLsbD_extractLsb', getLsbD_merge, if_pos (by omega), BitVec.getLsbD_extractLsb', BitVec.getLsbD_and,
      getLsbD_fmask]
    simp [hk, show k < 8 by omega]

/-- Settles O38: a field of eight bits leaves no bit outside it. -/
theorem widthEightReplacesTheByte : Obligations.WidthEightReplacesTheByte := by
  unfold Obligations.WidthEightReplacesTheByte
  refine ⟨by decide, fun old v => BitVec.eq_of_getLsbD_eq fun k hk => ?_⟩
  rw [getLsbD_merge, if_pos (by omega), Nat.sub_zero]

/-- The merge takes the low bits of its value only (R161). -/
theorem merge_and_fmask (old v : Byte) (off w : Nat) : merge old off w (v &&& fmask w) = merge old off w v := by
  rw [merge, BitVec.and_assoc, BitVec.and_self, ← merge]

/-- A second merge of the same field finds its bits there already (R160). -/
theorem merge_merge (old v : Byte) (off w : Nat) : merge (merge old off w v) off w v = merge old off w v := by
  refine BitVec.eq_of_getLsbD_eq fun k _ => ?_
  simp only [getLsbD_merge]
  split <;> rfl

/-- Settles O36: both commands ask the same of the sequencer, since they send the same byte. -/
theorem setfIgnoresExcessValueBits : Obligations.SetfIgnoresExcessValueBits := by
  unfold Obligations.SetfIgnoresExcessValueBits
  intro s reg off w v
  have plan : planOf (.setf reg off w v) = planOf (.setf reg off w (v &&& fmask w)) := by
    simp only [planOf, planSetf, merge_and_fmask]
  exact exec_eq_of_planOf_eq plan rfl

end Sys2Proof.Machine
end

section
/-! PROOFS. SETF with every primitive Ok, once and twice: the state it ends in, its trace and the register (R150, R151,
R154, R160). -/

namespace Sys2Proof.Machine

theorem setf_wf {reg : RegAddr} {off w : Nat} (v : Byte) (h1 : 1 ≤ w) (h8 : off + w ≤ 8) (maxBurst : Nat) :
    (Instr.setf reg off w v).wf maxBurst = true := by
  simp [Instr.wf, h1, h8]

/-- The state in which a SETF ends that has read `b`, with every primitive Ok. -/
def State.setfDone (reg : RegAddr) (off w : Nat) (v b : Byte) (es : List Event) (s : State) : State :=
  State.complete .none 0 (State.afterTxn .write [] (writeTrace s.cfg reg (merge b off w v))
    ((s.setfRead (.setf reg off w v) b es).devWrite reg (merge b off w v)))

section
variable (reg : RegAddr) (off w : Nat) (v b : Byte) (es : List Event) (s : State)

@[simp] theorem State.setfDone_cfg : (s.setfDone reg off w v b es).cfg = s.cfg := rfl

@[simp] theorem State.setfDone_trace :
    (s.setfDone reg off w v b es).trace =
      s.trace ++ (readTrace s.cfg reg 1 [b] ++ writeTrace s.cfg reg (merge b off w v)) :=
  List.append_assoc ..

/-- The releases have made the line known (R36, R251). -/
@[simp] theorem State.setfDone_deviceHeard : (s.setfDone reg off w v b es).deviceHeard = true :=
  (State.complete_deviceHeard ..).trans (State.afterTxn_deviceHeard ..)

end

section
variable {reg : RegAddr} {off w : Nat} {v b : Byte} {es : List Event} {s : State}

theorem State.setfDone_wf (h : s.dev.wf) : (s.setfDone reg off w v b es).dev.wf :=
  State.devWrite_wf (s := s.setfRead (.setf reg off w v) b es) h reg _

/-- The register named takes the merged byte, and every other keeps its own (R54). -/
theorem State.devRead_setfDone (h : s.dev.wf) (a : RegAddr) :
    (s.setfDone reg off w v b es).devRead a = if a = reg then merge b off w v else s.devRead a :=
  State.devRead_devWrite (s := s.setfRead (.setf reg off w v) b es) h reg a _

/-- SETF through both its transactions. -/
theorem exec_setf_ok {x : Answer} (hc : s.ctl = .idle) (h1 : 1 ≤ w) (h8 : off + w ≤ 8) (hb : brings s reg 1 x [b])
    (hi : s.inputs = readReturns s.cfg.transport x ++ (okTxn s.cfg.transport .write ++ es)) :
    exec (.setf reg off w v) s = .next (s.setfDone reg off w v b es) := by
  rw [exec_setf_read hc h1 h8 hb hi]
  exact drive_setf_write rfl rfl (State.setfRead_deviceHeard ..)

/-- What a SETF that completes leaves. -/
theorem exec_setf_completes {x : Answer} (hc : s.ctl = .idle)
    (hcs : s.cfg.transport = .addressed → s.csAsserted = false) (hdev : s.dev.wf) (h1 : 1 ≤ w) (h8 : off + w ≤ 8)
    (hb : brings s reg 1 x [b])
    (hi : s.inputs = readReturns s.cfg.transport x ++ (okTxn s.cfg.transport .write ++ es)) :
    ∃ t, exec (.setf reg off w v) s = .next t ∧ Completed s t .none 0 es ∧
      t.trace = s.trace ++ (readTrace s.cfg reg 1 [b] ++ writeTrace s.cfg reg (merge b off w v)) ∧
      t.rbuf = s.rbuf ∧ t.rmwLatch = b ∧
      (∀ a, a ≠ reg → t.devRead a = s.devRead a) ∧ t.devRead reg = merge b off w v := by
  refine ⟨_, exec_setf_ok hc h1 h8 hb hi, completed_complete rfl ?_ rfl rfl, State.setfDone_trace .., rfl, rfl,
    fun a ha => (State.devRead_setfDone hdev a).trans (if_neg ha), (State.devRead_setfDone hdev reg).trans (if_pos rfl)⟩
  cases ht : s.cfg.transport <;> simp [State.setfRead, accepted, ht, hcs]

/-- The step that takes the word of a SETF whose every primitive answers Ok runs it on the reference device. -/
theorem step_setf_ok (hc : s.ctl = .idle) (hcfg : s.cfg.wf) (h1 : 1 ≤ w) (h8 : off + w ≤ 8)
    (heard : s.deviceHeard = true) (hi : s.inputs = cmdEvents s.cfg (encode (.setf reg off w v)) ++ es) :
    step s = .next (s.setfDone reg off w v (s.devRead reg) es) := by
  have brought : brings s reg 1 .ok [s.devRead reg] := .inr ⟨rfl, heard, (s.devBurst_one reg).symm⟩
  rw [step_cmdEvents hc hcfg (setf_wf v h1 h8 _) hi]
  refine exec_setf_ok (s := { s with inputs := _ }) hc h1 h8 brought ?_
  rw [← List.append_assoc, ← okTxn_read]
  rfl

end

/-- Settles O22: the two brackets one after the other; the read's release leaves the line known for the write. -/
theorem setfCompletesOnFramed : Obligations.SetfCompletesOnFramed := by
  unfold Obligations.SetfCompletesOnFramed
  intro s es reg off w v x b hc ht hdev h1 h8 hb hi
  obtain ⟨t, hx, completed, trace, rest⟩ :=
    exec_setf_completes (v := v) hc (by simp [ht]) hdev h1 h8 hb (by rw [ht, hi, List.append_assoc]; rfl)
  simp only [readTrace, writeTrace, ht] at trace
  exact ⟨t, hx, completed, trace, rest⟩

/-- Settles O23: the same in the two transfers of the ADDRESSED transport. -/
theorem setfCompletesOnAddressed : Obligations.SetfCompletesOnAddressed := by
  unfold Obligations.SetfCompletesOnAddressed
  intro s es reg off w v x b hc ht hcs hdev h1 h8 hb hi
  obtain ⟨t, hx, completed, trace, rest⟩ :=
    exec_setf_completes (v := v) hc (fun _ => hcs) hdev h1 h8 hb (by rw [ht, hi]; rfl)
  simp only [readTrace, writeTrace, ht] at trace
  exact ⟨t, hx, completed, trace, rest⟩

/-- A read transaction sends no byte to a register (R104). -/
@[simp] theorem filterMap_written_readTrace (c : Config) (reg : RegAddr) (n : Nat) (R : List Byte) :
    (readTrace c reg n R).filterMap PhyEvent.written = [] := by
  cases ht : c.transport <;> simp only [readTrace, ht] <;> rfl

/-- A write transaction sends one byte, to the register it names (R103). -/
@[simp] theorem filterMap_written_writeTrace (c : Config) (reg : RegAddr) (v : Byte) :
    (writeTrace c reg v).filterMap PhyEvent.written = [(reg.setWidth 8, v)] := by
  cases ht : c.transport <;> simp only [writeTrace, ht] <;> rfl

/-- Settles O40: the second SETF reads the merged byte, and merges it into itself. -/
theorem setfTwiceIsSetfOnce : Obligations.SetfTwiceIsSetfOnce := by
  unfold Obligations.SetfTwiceIsSetfOnce
  intro s reg off w v es hc hcfg hdev hl h1 h8 hi
  rw [List.append_assoc] at hi
  have first := step_setf_ok hc hcfg h1 h8 (by simp [State.deviceHeard, hl]) hi
  have second := step_setf_ok (s := s.setfDone reg off w v (s.devRead reg)
    (cmdEvents s.cfg (encode (.setf reg off w v)) ++ es)) (reg := reg) (v := v) (es := es) rfl hcfg h1 h8
    (State.setfDone_deviceHeard ..) rfl
  have read := State.devRead_setfDone (reg := reg) (off := off) (w := w) (v := v) (b := s.devRead reg)
    (es := cmdEvents s.cfg (encode (.setf reg off w v)) ++ es) hdev
  have own := (read reg).trans (if_pos rfl)
  refine ⟨_, _, first, second, own, ?_, fun a => ?_⟩
  · simp [own, merge_merge]
  · rw [State.devRead_setfDone (State.setfDone_wf hdev), own, merge_merge]
    split
    case isTrue ha => rw [ha, own]
    case isFalse => rfl

end Sys2Proof.Machine
end

section
/-! PROOFS. SETF and the spec's two transactions, also where one fails: DoRead of one byte, and DoWrite of the merged byte
if and only if it succeeded (R150, R154 to R156). -/

namespace Sys2Proof.Machine

open Pseudocode

/-! ### What a read transaction keeps -/

/-- What no transaction changes: the parameters, the read buffer and the latch. -/
def State.buffers (s : State) : Config × List Byte × Byte := (s.cfg, s.rbuf, s.rmwLatch)

/-- Where the procedure `x` that begins in `s` runs to its end, it has left the buffers alone. -/
def KeepsBuffers {α : Type} (s : State) (x : Option (α × State)) : Prop :=
  ∀ a t, x = some (a, t) → t.buffers = s.buffers

theorem KeepsBuffers.ended {α : Type} {s t : State} (a : α) (h : t.buffers = s.buffers) :
    KeepsBuffers s (some (a, t)) := by
  rintro _ _ ⟨⟩
  exact h

/-- One procedure after another. -/
theorem KeepsBuffers.bind {α β : Type} {s : State} {x : Option (α × State)} {f : α × State → Option (β × State)}
    (h : KeepsBuffers s x) (hf : ∀ a t, t.buffers = s.buffers → KeepsBuffers s (f (a, t))) :
    KeepsBuffers s (x >>= f) := by
  cases x with
  | none => rintro _ _ ⟨⟩
  | some x => exact hf x.1 x.2 (h x.1 x.2 rfl)

theorem call_keepsBuffers {s t : State} (reg : RegAddr) (pr : Prim) (h : t.buffers = s.buffers) :
    KeepsBuffers s (call reg pr t) := by
  rintro rep u hu
  cases hi : t.inputs with
  | nil => rw [call_nil _ _ hi] at hu; cases hu
  | cons e es =>
    rw [call_cons _ _ hi] at hu
    cases hp : perform reg pr e { t with inputs := es } with
    | error r => rw [hp] at hu; cases hu
    | ok x =>
      rw [hp] at hu
      cases hu
      obtain ⟨-, -, eq⟩ := perform_spec hp
      rw [eq]
      exact h

theorem framedReadBody_keepsBuffers {s t : State} (reg : RegAddr) (n : Nat) (h : t.buffers = s.buffers) :
    KeepsBuffers s (framedReadBody reg n t) := by
  refine (call_keepsBuffers reg _ h).bind ?_
  rintro (_ | e) s₁ h₁
  case err => exact .ended _ h₁
  case ok =>
    refine (call_keepsBuffers reg _ h₁).bind ?_
    rintro (R | e) s₂ h₂
    · exact .ended _ h₂
    · exact .ended _ h₂

/-- A FRAMED read transaction keeps what its body keeps (R105). -/
theorem framedTxn_keepsBuffers {s t : State} {body : State → Option (TxnResult × State)} (reg : RegAddr)
    (h : t.buffers = s.buffers) (hbody : ∀ u : State, u.buffers = s.buffers → KeepsBuffers s (body u)) :
    KeepsBuffers s (framedTxn reg .read body t) := by
  refine (call_keepsBuffers reg _ h).bind ?_
  rintro (_ | e) s₁ h₁
  case err => exact .ended _ h₁
  case ok =>
    refine (call_keepsBuffers reg _ (by exact h₁)).bind fun _ s₂ h₂ => ?_
    refine (hbody s₂ h₂).bind fun res s₃ h₃ => ?_
    refine (call_keepsBuffers reg _ h₃).bind fun rep s₄ h₄ => ?_
    refine (call_keepsBuffers reg _ (by exact h₄)).bind fun _ s₅ h₅ => ?_
    exact .ended _ h₅

/-- A read transaction leaves the parameters, the read buffer and the latch to the command (R132). -/
theorem doRead_keepsBuffers (s : State) (reg : RegAddr) (n : Nat) : KeepsBuffers s (doRead reg n s) := by
  unfold Pseudocode.doRead
  split
  · exact framedTxn_keepsBuffers reg rfl fun u hu => framedReadBody_keepsBuffers reg n hu
  · refine (call_keepsBuffers reg _ rfl).bind ?_
    rintro (R | e) s₁ h₁
    · exact .ended _ h₁
    · exact .ended _ h₁

/-! ### The two transactions of SETF -/

/-- A failed read ends the procedure of SETF (R155). -/
theorem runSetf_of_doRead_err {s s₁ : State} {reg : RegAddr} {k : ErrKind} {e : Nat} (off w : Nat) (v : Byte)
    (h : doRead reg 1 s = some (.err k e, s₁)) : runSetf reg off w v s = some (s₁.complete k e) := by
  rw [runSetf, h]
  rfl

/-- Settles O28: the procedure ends after the failed read, and the controller does what the procedure does. -/
theorem setfReadErrorMakesNoWrite : Obligations.SetfReadErrorMakesNoWrite := by
  unfold Obligations.SetfReadErrorMakesNoWrite
  intro s s₁ reg off w v k e hc h1 h8 hread
  obtain ⟨t, hx, idle, same⟩ := sequencerDoesWhatTheProceduresDo s (s₁.complete k e) (.setf reg off w v) hc
    (setf_wf v h1 h8 _) (runSetf_of_doRead_err off w v hread)
  have kept := doRead_keepsBuffers _ reg 1 _ _ hread
  have cfg : s₁.cfg = s.cfg := congrArg (·.1) kept
  refine ⟨t, hx, idle, congrArg (·.status.errkind) same, ?_, congrArg (·.trace) same, congrArg (·.dev) same,
    (congrArg (·.rbuf) same).trans (congrArg (·.2.1) kept),
    (congrArg (·.rmwLatch) same).trans (congrArg (·.2.2) kept)⟩
  rw [← cfg]
  exact congrArg (·.nativeErr) same

/-- All the ways in which the procedure of SETF can end (R150). -/
theorem runSetf_cases {s t : State} {reg : RegAddr} {off w : Nat} {v : Byte} (h : runSetf reg off w v s = some t) :
    (∃ k e s₁, doRead reg 1 s = some (.err k e, s₁) ∧ t = s₁.complete k e) ∨
    ∃ R s₁, doRead reg 1 s = some (.ok R, s₁) ∧
      ((∃ k e s₂, doWrite reg (merge (R.headD 0) off w v) { s₁ with rmwLatch := R.headD 0 } = some (.err k e, s₂) ∧
          t = s₂.complete k e) ∨
        ∃ R₂ s₂, doWrite reg (merge (R.headD 0) off w v) { s₁ with rmwLatch := R.headD 0 } = some (.ok R₂, s₂) ∧
          t = s₂.complete .none 0) := by
  obtain ⟨⟨R | ⟨k, e⟩, s₁⟩, read, h⟩ := Option.bind_eq_some_iff.1 h
  case err =>
    cases h
    exact .inl ⟨k, e, s₁, read, rfl⟩
  case ok =>
    obtain ⟨⟨R₂ | ⟨k, e⟩, s₂⟩, write, h⟩ := Option.bind_eq_some_iff.1 h <;> cases h
    · exact .inr ⟨R, s₁, read, .inr ⟨R₂, s₂, write, rfl⟩⟩
    · exact .inr ⟨R, s₁, read, .inl ⟨k, e, s₂, write, rfl⟩⟩

/-- Settles O32: the controller has done what the procedure does, which ends after one transaction or after two. -/
theorem setfReadsOnceThenWritesOnce : Obligations.SetfReadsOnceThenWritesOnce := by
  unfold Obligations.SetfReadsOnceThenWritesOnce
  intro s t reg off w v hc h1 h8 returns hx idle
  obtain ⟨t₀, ran, same⟩ :=
    completedRunsAreThoseOfTheProcedures s t (.setf reg off w v) hc (setf_wf v h1 h8 _) returns hx idle
  have trace : t.trace = t₀.trace := congrArg (·.trace) same
  have kind : t.status.errkind = t₀.status.errkind := congrArg (·.status.errkind) same
  obtain ⟨k, e, s₁, read, rfl⟩ | ⟨R, s₁, read, ⟨k, e, s₂, write, rfl⟩ | ⟨R₂, s₂, write, rfl⟩⟩ := runSetf_cases ran
  · exact ⟨_, s₁, read, trace, kind⟩
  · exact ⟨_, s₁, read, _, s₂, write, trace, kind⟩
  · exact ⟨_, s₁, read, _, s₂, write, trace, kind⟩

end Sys2Proof.Machine
end

section
/-! PROOFS. The issue of a command by the host: what the host's record leaves of the block, how a command ends, and how
the end of an operation follows from the ends of its commands (R192, R214, R248). -/

namespace Sys2Proof.Machine.Client

/-! ### The host's record -/

/-- The host's record of a command leaves the block as the command ended, but for a register written inside a reset wait
(R248). -/
theorem issued_block_eq (p : Params) (i : Instr) (s : State) (h : Handle) :
    (issued p i s h).block =
      { s with dev := (issued p i s h).block.dev, freeCtr := (issued p i s h).block.freeCtr } := by
  simp only [issued]
  split <;> rfl

section
variable (p : Params) (i : Instr) (s : State) (h : Handle)

@[simp] theorem issued_block_cfg : (issued p i s h).block.cfg = s.cfg := by rw [issued_block_eq]
@[simp] theorem issued_block_ctl : (issued p i s h).block.ctl = s.ctl := by rw [issued_block_eq]
@[simp] theorem issued_block_status : (issued p i s h).block.status = s.status := by rw [issued_block_eq]
@[simp] theorem issued_block_nativeErr : (issued p i s h).block.nativeErr = s.nativeErr := by rw [issued_block_eq]
@[simp] theorem issued_block_rbuf : (issued p i s h).block.rbuf = s.rbuf := by rw [issued_block_eq]
@[simp] theorem issued_block_inputs : (issued p i s h).block.inputs = s.inputs := by rw [issued_block_eq]
@[simp] theorem issued_block_trace : (issued p i s h).block.trace = s.trace := by rw [issued_block_eq]

end

/-- Outside a reset wait the host's record leaves the whole block as the command ended (R248). -/
theorem issued_block_of_settled {h : Handle} (settled : h.settleOwed = 0) (p : Params) (i : Instr) (s : State) :
    (issued p i s h).block = s := by
  simp [issued, settled]

/-! ### The end of a command -/

section
variable {p : Params} {i : Instr} {h h' : Handle}

/-- A command whose issue does not stop has left the block in some state. -/
theorem exec_next_of_issue (fault : ∀ f, issue p i h ≠ .stopped f) (refused : ∀ r, issue p i h ≠ .noMeaning r) :
    ∃ s, exec i h.block = .next s := by
  cases he : exec i h.block with
  | next s => exact ⟨s, rfl⟩
  | fault f => exact absurd (by simp [issue, he]) (fault f)
  | refused r => exact absurd (by simp [issue, he]) (refused r)

/-- A command that was issued and is done has completed without an error. -/
theorem issue_done (hx : issue p i h = .done () h') : ∃ s, h' = issued p i s h ∧ s.status.err = false := by
  obtain ⟨s, hs⟩ := exec_next_of_issue (p := p) (i := i) (h := h) (by simp [hx]) (by simp [hx])
  obtain ⟨-, e⟩ | ⟨-, -, e⟩ | ⟨-, -, -, e⟩ | ⟨-, -, ok, e⟩ := issue_cases (p := p) hs <;> cases hx.symm.trans e
  exact ⟨s, rfl, ok⟩

/-- The error of a command is the block's record (R192, R214). -/
theorem issue_error {k : ErrKind} {n : Word} (hx : issue p i h = .error k n h') :
    ∃ s, h' = issued p i s h ∧ k = s.status.errkind ∧ n = s.nativeErr := by
  obtain ⟨s, hs⟩ := exec_next_of_issue (p := p) (i := i) (h := h) (by simp [hx]) (by simp [hx])
  obtain ⟨-, e⟩ | ⟨-, -, e⟩ | ⟨-, -, -, e⟩ | ⟨-, -, -, e⟩ := issue_cases (p := p) hs <;> cases hx.symm.trans e
  exact ⟨s, rfl, rfl, rfl⟩

/-- A command that completes without an error is done (R214). -/
theorem issue_of_complete {u : State} (hx : exec i h.block = .next (u.complete .none 0)) :
    issue p i h = .done () (issued p i (u.complete .none 0) h) := by
  simp [issue, hx, Status.completed]

end

/-! ### One operation after another -/

/-- Two operations are done only where both are (R192). -/
theorem Out.bind_eq_done {α β : Type} {x : Out α} {f : α → Handle → Out β} {b : β} {h' : Handle} :
    x.bind f = .done b h' ↔ ∃ a h₁, x = .done a h₁ ∧ f a h₁ = .done b h' := by
  cases x <;> simp [Out.bind]

/-- Two operations end with the error of the first, or else of the second (R192). -/
theorem Out.bind_eq_error {α β : Type} {x : Out α} {f : α → Handle → Out β} {k : ErrKind} {n : Word} {h' : Handle} :
    x.bind f = .error k n h' ↔ x = .error k n h' ∨ ∃ a h₁, x = .done a h₁ ∧ f a h₁ = .error k n h' := by
  cases x <;> simp [Out.bind]

section
variable {α : Type} {p : Params} {i : Instr} {h h₁ h' : Handle} {k : ErrKind} {n : Word} {f : Unit → Handle → Out α}

/-- An operation stops at an error of its first command (R192). -/
theorem stops_at_first_error (hx : issue p i h = .error k n h') : (issue p i h).bind f = .error k n h' :=
  Out.bind_eq_error.2 (.inl hx)

/-- An operation whose first command is done ends as the rest of it does (R192). -/
theorem stops_at_later_error (hx : issue p i h = .done () h₁) (rest : f () h₁ = .error k n h') :
    (issue p i h).bind f = .error k n h' :=
  Out.bind_eq_error.2 (.inr ⟨(), h₁, hx, rest⟩)

end

/-- Settles O54: `bind` stops at the first error, and `completed` takes an error as the completion of a
program's command. -/
theorem clientOperationsStopAtAnError : Obligations.ClientOperationsStopAtAnError := by
  unfold Obligations.ClientOperationsStopAtAnError
  intro p h h₁ h' k n
  refine ⟨fun i hx => ?record,
    stops_at_first_error, fun first second => stops_at_later_error first (stops_at_first_error second),
    stops_at_first_error, fun first second => stops_at_later_error first (stops_at_first_error second),
    stops_at_first_error, fun first second => stops_at_later_error first second,
    stops_at_first_error, fun first second => stops_at_later_error first (stops_at_first_error second),
    fun _ => stops_at_first_error, stops_at_first_error, fun _ => stops_at_first_error,
    fun _ _ => stops_at_first_error, fun before after i first second => ?program⟩
  case record =>
    obtain ⟨s, rfl, rfl, rfl⟩ := issue_error hx
    simp
  case program =>
    rw [runProgram_append, first, Out.bind_done, runProgram, second, Out.completed_error, Out.bind_done]

/-- Settles O52: `dlpf_enabled` changes after the SETF, which is then done without an error. -/
theorem filterSettingUpdatesOnlyOnSuccess : Obligations.FilterSettingUpdatesOnlyOnSuccess := by
  unfold Obligations.FilterSettingUpdatesOnlyOnSuccess
  intro p h h' value
  have refused : 7 < value → setDlpf p value h = .refused .dlpfAboveSeven h := fun above => if_pos above
  refine ⟨refused, ?_⟩
  by_cases above : 7 < value
  case pos => simp [refused above]
  case neg =>
    rw [setDlpf, if_neg above]
    refine ⟨fun hx => ?done, fun k n hx => ?error⟩
    case done =>
      obtain ⟨_, h₁, setf, ⟨⟩⟩ := Out.bind_eq_done.1 hx
      obtain ⟨s, rfl, ok⟩ := issue_done setf
      exact ⟨rfl, rfl, by simpa using ok⟩
    case error =>
      obtain setf | ⟨_, h₁, -, ⟨⟩⟩ := Out.bind_eq_error.1 hx
      obtain ⟨s, rfl, -⟩ := issue_error setf
      rfl

/-- A rate from 1 to the base is not refused: its quotient is not 0 (R178). -/
theorem setSampleRate_of_le {p : Params} {rate : Nat} {h : Handle} (h0 : rate ≠ 0)
    (hr : rate ≤ rateBase h.dlpfEnabled) :
    setSampleRate p rate h = issue p (.write p.rSmplrtDiv (rateDivider (rateBase h.dlpfEnabled) rate)) h := by
  have quotient : rateBase h.dlpfEnabled / rate ≠ 0 := (Nat.div_pos hr (by omega)).ne'
  rw [setSampleRate, if_neg h0, if_neg quotient]

/-- Settles O51: outside a reset wait the WRITE that the device hears leaves the divider in the register. -/
theorem sampleRateDivider : Obligations.SampleRateDivider := by
  unfold Obligations.SampleRateDivider
  intro p h rate es
  refine ⟨fun h0 => if_pos h0, fun above => ?_, fun h0 hr hc hdev line settled hi => ?_⟩
  · rw [setSampleRate, if_neg (by omega), if_pos (Nat.div_eq_of_lt above)]
  · have heard : h.block.deviceHeard = true := by simp [State.deviceHeard, line]
    have write := exec_write_ok (reg := p.rSmplrtDiv) (v := rateDivider (rateBase h.dlpfEnabled) rate) hc hi
    rw [heard] at write
    refine ⟨_, (setSampleRate_of_le h0 hr).trans (issue_of_complete write), rfl, rfl, ?_⟩
    rw [issued_block_of_settled settled]
    exact (State.devRead_heardWrite (s := { accepted _ h.block with inputs := es }) hdev p.rSmplrtDiv _ _).trans
      (if_pos rfl)

end Sys2Proof.Machine.Client
end

section
/-! PROOFS. Client operations in which every primitive answers Ok: what they issue and what they return (R172, R173,
R183, R184). -/

namespace Sys2Proof.Machine

theorem okRead_eq (t : Transport) (b : Byte) : okRead t b = readReturns t (.okBytes [b]) := by cases t <;> rfl

/-- Any byte of the device (R52). -/
theorem brings_okBytes_one (s : State) (reg : RegAddr) (b : Byte) : brings s reg 1 (.okBytes [b]) [b] :=
  .inl ⟨rfl, rfl⟩

/-- The state in which a READ ends that has read `b`, with every primitive Ok. -/
def State.readDone (reg : RegAddr) (b : Byte) (es : List Event) (s : State) : State :=
  State.complete .none 0 (State.storeReceived (State.afterTxn .read [b] (readTrace s.cfg reg 1 [b])
    { accepted (.read reg) s with inputs := es }))

section
variable (reg : RegAddr) (b : Byte) (es : List Event) (s : State)

@[simp] theorem State.readDone_cfg : (s.readDone reg b es).cfg = s.cfg := rfl
@[simp] theorem State.readDone_ctl : (s.readDone reg b es).ctl = .idle := rfl
@[simp] theorem State.readDone_err : (s.readDone reg b es).status.err = false := rfl
@[simp] theorem State.readDone_rbuf : (s.readDone reg b es).rbuf = b :: s.rbuf.drop 1 := rfl
@[simp] theorem State.readDone_inputs : (s.readDone reg b es).inputs = es := rfl
@[simp] theorem State.readDone_trace : (s.readDone reg b es).trace = s.trace ++ readTrace s.cfg reg 1 [b] := rfl

end

namespace Client

/-! ### READs of a client -/

/-- The handle after a READ that has read `b`, with every primitive Ok. -/
def Handle.afterRead (reg : RegAddr) (b : Byte) (es : List Event) (h : Handle) : Handle :=
  { h with block := h.block.readDone reg b es, acts := h.acts ++ [.issued (.read reg)] }

section
variable {p : Params} {reg reg' : RegAddr} {b b' : Byte} {es : List Event} {h : Handle}

/-- A READ is no device write, so it brings no reset wait (R248). -/
theorem issue_read_ok (hc : h.block.ctl = .idle) (hi : h.block.inputs = okRead h.block.cfg.transport b ++ es) :
    issue p (.read reg) h = .done () (h.afterRead reg b es) := by
  rw [okRead_eq] at hi
  exact (issue_of_complete (exec_read_ok hc (brings_okBytes_one _ reg b) hi)).trans
    (congrArg (Out.done ()) (issued_of_no_write rfl))

/-- The host finds the byte read in `rbuf[0]` (R133, R33). -/
theorem bufferByte_afterRead (hcfg : h.block.cfg.wf) : bufferByte (h.afterRead reg b es) 0 = b := by
  obtain ⟨-, burst, -⟩ := hcfg
  exact if_pos (Nat.lt_of_lt_of_le (by decide) burst)

end

/-! ### Two READs -/

/-- An operation of two READs gives a function `f` of the two bytes and the handle. -/
theorem two_reads_ok {α : Type} {p : Params} {reg reg' : RegAddr} {b b' : Byte} {es : List Event} {h : Handle}
    (hc : h.block.ctl = .idle) (hcfg : h.block.cfg.wf)
    (hi : h.block.inputs = okRead h.block.cfg.transport b ++ okRead h.block.cfg.transport b' ++ es)
    (f : Byte → Byte → Handle → α) :
    ∃ h', ((issue p (.read reg) h).bind fun _ h₁ => (issue p (.read reg') h₁).bind fun _ h₂ =>
        .done (f (bufferByte h₁ 0) (bufferByte h₂ 0) h₂) h₂) = .done (f b b' h') h' ∧
      h'.acts = h.acts ++ [.issued (.read reg), .issued (.read reg')] ∧ h'.block.status.err = false ∧
      h'.dlpfEnabled = h.dlpfEnabled ∧ h'.expectedIdentity = h.expectedIdentity := by
  rw [List.append_assoc] at hi
  have first := issue_read_ok (p := p) (reg := reg) hc hi
  have second := issue_read_ok (p := p) (reg := reg') (b := b') (es := es)
    (h := h.afterRead reg b (okRead h.block.cfg.transport b' ++ es)) rfl rfl
  refine ⟨(h.afterRead reg b (okRead h.block.cfg.transport b' ++ es)).afterRead reg' b' es, ?_, List.append_assoc ..,
    rfl, rfl, rfl⟩
  rw [first, Out.bind_done, second, Out.bind_done, bufferByte_afterRead hcfg, bufferByte_afterRead (by exact hcfg)]

theorem isSome_productId (p : Params) (b : Byte) : (productId p b).isSome = p.knownProductIds.contains b := by
  unfold productId
  split <;> simp_all

/-- Settles O53: the two READs bring the two bytes, and neither byte decides whether the second is read. -/
theorem identityCheckReadsBoth : Obligations.IdentityCheckReadsBoth := by
  unfold Obligations.IdentityCheckReadsBoth
  intro p h id rev es hc hcfg hi
  obtain ⟨h', done, acts, err, dlpf, expected⟩ :=
    two_reads_ok (p := p) (reg := p.rWhoAmI) (reg' := p.rProductId) hc hcfg hi
      fun b b' h₂ => decide (b = h₂.expectedIdentity) && (productId p b').isSome
  rw [expected, isSome_productId] at done
  exact ⟨h', done, acts, err, dlpf⟩

/-- Two bytes as one 16-bit number, high byte first (R184, R187). -/
theorem toNat_append_bytes (hi lo : Byte) : (hi ++ lo : BitVec 16).toNat = hi.toNat * 256 + lo.toNat := by
  rw [BitVec.toNat_append, ← Nat.shiftLeft_add_eq_or_of_lt lo.isLt, Nat.shiftLeft_eq]

/-- Settles O55: the two READs bring the two bytes, the high one first. -/
theorem fifoCounterIsBigEndian : Obligations.FifoCounterIsBigEndian := by
  unfold Obligations.FifoCounterIsBigEndian
  intro p h hi lo es hc hcfg inputs
  obtain ⟨h', done, acts, -⟩ := two_reads_ok (p := p) (reg := p.rFifoCountH) (reg' := p.rFifoCountL) hc hcfg inputs
    fun b b' _ => (b ++ b' : BitVec 16)
  exact ⟨h', hi ++ lo, done, toNat_append_bytes hi lo, acts⟩

/-! ### READ and WRITE against SETF -/

/-- A WRITE that completes adds its transaction to the trace, and leaves the read buffer (R130). -/
theorem issue_write_ok {p : Params} {reg : RegAddr} {v : Byte} {es : List Event} {h : Handle} (hc : h.block.ctl = .idle)
    (hi : h.block.inputs = okTxn h.block.cfg.transport .write ++ es) :
    ∃ h', issue p (.write reg v) h = .done () h' ∧ h'.acts = h.acts ++ [.issued (.write reg v)] ∧
      h'.block.trace = h.block.trace ++ writeTrace h.block.cfg reg v ∧ h'.block.rbuf = h.block.rbuf := by
  refine ⟨_, issue_of_complete (exec_write_ok hc hi), rfl, ?_, ?_⟩
  · rw [issued_block_trace, State.heardWrite_eq]
    rfl
  · rw [issued_block_rbuf, State.heardWrite_eq]
    rfl

/-- Setting one bit by SETF's merge, or by the host's OR (R91, R183). -/
theorem merge_one_bit (old : Byte) {k : Nat} (hk : k < 8) : merge old k 1 1 = old ||| BitVec.ofNat 8 (1 <<< k) := by
  refine BitVec.eq_of_getLsbD_eq fun j hj => ?_
  rw [getLsbD_merge, BitVec.getLsbD_or, BitVec.getLsbD_ofNat, Nat.one_shiftLeft, Nat.testBit_two_pow]
  by_cases same : k = j
  · subst same; simp [hk]
  · rw [if_neg (by omega)]; simp [same]

/-- Settles O57: the READ and the WRITE make the calls of SETBIT's two transactions, since the host's OR is
its merge. -/
theorem fifoBufferEnableTraceIsThatOfSetbit : Obligations.FifoBufferEnableTraceIsThatOfSetbit := by
  unfold Obligations.FifoBufferEnableTraceIsThatOfSetbit
  intro p h b es hp hc hcfg hi
  obtain ⟨-, -, -, -, -, -, bit, -⟩ := hp
  rw [List.append_assoc] at hi
  have read := issue_read_ok (p := p) (reg := p.rUserCtrl) hc hi
  obtain ⟨h', write, acts, trace, rbuf⟩ := issue_write_ok (p := p) (reg := p.rUserCtrl) (es := es)
    (v := b ||| BitVec.ofNat 8 (1 <<< p.bFifoBufEn))
    (h := h.afterRead p.rUserCtrl b (okTxn h.block.cfg.transport .write ++ es)) rfl rfl
  have setbit := exec_setf_ok (reg := p.rUserCtrl) (off := p.bFifoBufEn) (w := 1) (v := 1) hc le_rfl bit
    (brings_okBytes_one _ _ b) (okRead_eq _ _ ▸ hi)
  refine ⟨h', _, ?_, setbit, ?_, acts.trans (List.append_assoc ..), rbuf, rfl⟩
  · rw [enableFifoBuffer, read, Out.bind_done, bufferByte_afterRead hcfg]
    exact write
  · rw [State.setfDone_trace, merge_one_bit b bit, ← List.append_assoc]
    exact trace

end Client

end Sys2Proof.Machine
end

section
/-! PROOFS. SETF with every primitive Ok from any idle state, also where the chip-select line is not known, and the
reset program (R150, R174, R251). -/

namespace Sys2Proof.Machine

section
variable {p : Plan} {s : State} {es : List Event}

/-- Where the reference device does not hear a FRAMED read, PhyExchange brings free bytes (R251). -/
theorem drive_fExch_unheard (hc : s.ctl = .busy) (hs : s.step = .fExch) (unheard : s.deviceHeard = false) :
    drive p (.answer .ok :: es) s =
      drive p es { s with
        inputs := es, step := .fRelease, rx := s.freeBytes p.count, freeCtr := s.freeCtr + p.count
        trace := s.trace ++ [⟨.exchange (List.replicate p.count 0), some (.ok (s.freeBytes p.count))⟩] } := by
  have prim : p.prim { s with inputs := es } = .exchange (List.replicate p.count 0) := by simp only [Plan.prim, hs]
  have expects : (Prim.exchange (List.replicate p.count 0)).expects = p.count := List.length_replicate
  have unheard' : State.deviceHeard { s with inputs := es } = false := unheard
  have answer : perform p.reg (p.prim { s with inputs := es }) (.answer .ok) { s with inputs := es } =
      .ok (.ok (s.freeBytes p.count), (State.drawn { s with inputs := es } p.count).returned
        (.exchange (List.replicate p.count 0)) (.ok (s.freeBytes p.count))) := by
    simp only [prim, perform, Prim.isDelay, answered, unheard', expects]
    rfl
  rw [drive_next hc (land_of_perform answer)]
  simp only [Plan.advance, State.returned, State.wire, State.record, State.drawn, hs]

/-- A read transaction that the reference device does not hear, in which every primitive answers Ok (R251). -/
theorem drive_readTxn_unheard (hc : s.ctl = .busy) (unheard : s.deviceHeard = false) :
    drive p (okTxn s.cfg.transport .read ++ es) (State.startTxn .read s) =
      drive p es (p.onOk (State.afterTxn .read (s.freeBytes p.count)
        (readTrace s.cfg p.reg p.count (s.freeBytes p.count)) ({ s with inputs := es }.drawn p.count))) := by
  have framed : s.cfg.transport = .framed := by
    cases ht : s.cfg.transport with
    | framed => rfl
    | addressed => simp [State.deviceHeard, ht] at unheard
  simp only [okTxn, framed, List.cons_append, List.nil_append]
  rw [drive_fAssert (by exact hc) (by simp [State.startTxn_step, framed]), drive_fSettle1 (by exact hc) rfl,
    drive_fSend_read (by exact hc) rfl rfl, drive_fExch_unheard (by exact hc) rfl (by exact unheard),
    drive_fRelease (by exact hc) rfl, drive_fSettle2 (by exact hc) rfl, Plan.endTxn_of_none _ (by rfl)]
  simp [State.afterTxn, readTrace, State.drawn, State.freeBytes, framed]

end

section
variable {s : State} {reg : RegAddr} {off w : Nat} {v : Byte} {es : List Event}

/-- SETF through a read transaction that the reference device does not hear: a free byte is drawn into the latch. -/
theorem exec_setf_read_unheard (hc : s.ctl = .idle) (h1 : 1 ≤ w) (h8 : off + w ≤ 8) (unheard : s.deviceHeard = false)
    (hi : s.inputs = okTxn s.cfg.transport .read ++ es) :
    exec (.setf reg off w v) s =
      drive (planSetf reg off w v) es (State.startTxn .write
        ((s.drawn 1).setfRead (.setf reg off w v) (Config.freeByte s.freeCtr) es)) := by
  rw [exec_idle hc (setf_wf v h1 h8 _), startCommand_eq_startTxn, hi]
  exact drive_readTxn_unheard (s := accepted (.setf reg off w v) s) rfl unheard

/-- SETF with every primitive Ok, on the reference device or with a byte drawn for it. -/
theorem exec_setf_okReturns (hc : s.ctl = .idle) (h1 : 1 ≤ w) (h8 : off + w ≤ 8)
    (hi : s.inputs = okReturns s.cfg.transport (.setf reg off w v) ++ es) :
    ∃ n b, exec (.setf reg off w v) s = .next ((s.drawn n).setfDone reg off w v b es) := by
  simp only [okReturns, List.append_assoc] at hi
  cases heard : s.deviceHeard with
  | true =>
    have brought : brings s reg 1 .ok [s.devRead reg] := .inr ⟨rfl, heard, (s.devBurst_one reg).symm⟩
    exact ⟨0, s.devRead reg, exec_setf_ok hc h1 h8 brought (okTxn_read _ ▸ hi)⟩
  | false =>
    refine ⟨1, Config.freeByte s.freeCtr, ?_⟩
    rw [exec_setf_read_unheard hc h1 h8 heard hi]
    exact drive_setf_write rfl rfl (State.setfRead_deviceHeard ..)

end

namespace Client

/-- A SETF whose every primitive answers Ok is done, and the block is ready for the next command. -/
theorem issue_setf_ok {p : Params} {reg : RegAddr} {off w : Nat} {v : Byte} {es : List Event} {h : Handle}
    (hc : h.block.ctl = .idle) (h1 : 1 ≤ w) (h8 : off + w ≤ 8)
    (hi : h.block.inputs = okReturns h.block.cfg.transport (.setf reg off w v) ++ es) :
    ∃ h', issue p (.setf reg off w v) h = .done () h' ∧ h'.acts = h.acts ++ [.issued (.setf reg off w v)] ∧
      h'.block.ctl = .idle ∧ h'.block.cfg = h.block.cfg ∧ h'.block.inputs = es ∧ h'.block.status.err = false := by
  obtain ⟨n, b, setf⟩ := exec_setf_okReturns hc h1 h8 hi
  exact ⟨_, issue_of_complete setf, rfl, issued_block_ctl .., issued_block_cfg .., issued_block_inputs ..,
    congrArg (·.err) (issued_block_status ..)⟩

/-- Settles O56: each SETF is done and leaves the events of the next. -/
theorem deviceResetSequence : Obligations.DeviceResetSequence := by
  unfold Obligations.DeviceResetSequence
  intro p h es hp hc _ hi
  obtain ⟨deviceReset, -, -, sigpath, -⟩ := hp
  rw [List.append_assoc] at hi
  obtain ⟨h₁, first, acts₁, idle, cfg, inputs, -⟩ := issue_setf_ok (p := p) hc le_rfl deviceReset hi
  obtain ⟨h₂, second, acts₂, -, -, -, ok⟩ := issue_setf_ok (p := p) (es := es) (reg := p.rSigpath) (v := 7)
    (h := { h₁ with settleOwed := h₁.settleOwed - 150, acts := h₁.acts ++ [.waited 150] })
    idle (by decide : 1 ≤ 3) sigpath (by rw [inputs, cfg])
  refine ⟨{ h₂ with settleOwed := h₂.settleOwed - 150, acts := h₂.acts ++ [.waited 150] }, ?_, ok, ?_⟩
  · rw [reset, first, Out.bind_done, waitMs, Out.bind_done, second, Out.bind_done, waitMs]
  · simp [acts₂, acts₁]

end Client

end Sys2Proof.Machine
end

section
/-! PROOFS. Rounding to binary32, and the samples of a measurement (R187 to R189, D39). -/

namespace Sys2Proof.Machine

namespace Binary32

/-! ### The word of a sign and a magnitude -/

section
variable (neg : Bool) {bits : Nat} (h : bits < 2 ^ 31)
include h

theorem toNat_signed : (BitVec.ofBool neg ++ BitVec.ofNat 31 bits : Word).toNat = neg.toNat * 2 ^ 31 + bits := by
  have low : (BitVec.ofNat 31 bits).toNat = bits := Nat.mod_eq_of_lt h
  rw [BitVec.toNat_append, low, ← Nat.shiftLeft_add_eq_or_of_lt h, Nat.shiftLeft_eq, BitVec.toNat_ofBool]

theorem expField_signed : expField (BitVec.ofBool neg ++ BitVec.ofNat 31 bits) = bits / 2 ^ 23 := by
  rw [expField, BitVec.extractLsb'_toNat, toNat_signed neg h, Nat.shiftRight_eq_div_pow]
  omega

theorem fracField_signed : fracField (BitVec.ofBool neg ++ BitVec.ofNat 31 bits) = bits % 2 ^ 23 := by
  rw [fracField, BitVec.extractLsb'_toNat, toNat_signed neg h, Nat.shiftRight_zero]
  omega

end

/-- The word of `m + e · 2^23` has the magnitude `m · 2^e`: below `2^23` a subnormal one, which `e = 0` only brings; at
`2^24` the carry has moved the exponent (R188, D39). -/
theorem units_signed (neg : Bool) {m e : Nat} (hm : m ≤ 2 ^ 24) (he : e = 0 ∨ 2 ^ 23 ≤ m)
    (h : m + e * 2 ^ 23 < 2 ^ 31) :
    units (BitVec.ofBool neg ++ BitVec.ofNat 31 (m + e * 2 ^ 23)) = m * 2 ^ e := by
  rw [units, expField_signed neg h, fracField_signed neg h]
  by_cases subnormal : m < 2 ^ 23
  case pos =>
    obtain rfl : e = 0 := by omega
    rw [if_pos (by omega)]
    omega
  case neg =>
    rw [if_neg (by omega)]
    by_cases carry : m = 2 ^ 24
    case pos =>
      subst carry
      rw [show (2 ^ 24 + e * 2 ^ 23) % 2 ^ 23 = 0 by omega, show (2 ^ 24 + e * 2 ^ 23) / 2 ^ 23 - 1 = e + 1 by omega]
      omega
    case neg =>
      rw [show 2 ^ 23 + (m + e * 2 ^ 23) % 2 ^ 23 = m by omega, show (m + e * 2 ^ 23) / 2 ^ 23 - 1 = e by omega]

/-! ### Rounding -/

/-- The nearest whole number is the quotient, or one more. -/
theorem nearest_bounds (n d : Nat) : n / d ≤ nearest n d ∧ nearest n d ≤ n / d + 1 := by
  simp only [nearest]
  split <;> omega

/-- The nearest whole number is within one half of the quotient. -/
theorem nearest_within_half (n : Nat) {d : Nat} (hd : 0 < d) :
    2 * (nearest n d * d) ≤ 2 * n + d ∧ 2 * n ≤ 2 * (nearest n d * d) + d := by
  have division : n / d * d + n % d = n := Nat.div_add_mod' n d
  have remainder : n % d < d := Nat.mod_lt n hd
  simp only [nearest]
  split
  case isTrue up => rw [Nat.add_one_mul (n / d) d]; omega
  case isFalse down => omega

/-- The exponent that `round` chooses for the quotient `q`: 24 bits of it are kept. -/
theorem kept_bits (q : Nat) :
    q / 2 ^ (q.log2 - 23) < 2 ^ 24 ∧ (q.log2 - 23 = 0 ∨ 2 ^ 23 ≤ q / 2 ^ (q.log2 - 23)) := by
  have upper : q < 2 ^ (q.log2 + 1) := Nat.lt_log2_self
  by_cases small : q.log2 ≤ 23
  case pos =>
    have : 2 ^ (q.log2 + 1) ≤ 2 ^ 24 := Nat.pow_le_pow_right (by decide) (by omega)
    rw [Nat.sub_eq_zero_of_le small]
    omega
  case neg =>
    have lower : 2 ^ q.log2 ≤ q := Nat.log2_self_le (by rintro rfl; simp at small)
    refine ⟨Nat.div_lt_of_lt_mul ?_, .inr ((Nat.le_div_iff_mul_le (by positivity)).2 ?_)⟩
    · rwa [← pow_add, show q.log2 - 23 + 24 = q.log2 + 1 by omega]
    · rwa [← pow_add, show 23 + (q.log2 - 23) = q.log2 by omega]

/-- A rounded value is finite only where the encoding stays below that of infinity. -/
theorem lt_infinity_of_isFinite {neg : Bool} {bits : Nat}
    (h : isFinite (BitVec.ofBool neg ++ BitVec.ofNat 31 (if bits < 0x7F800000 then bits else 0x7F800000)) = true) :
    bits < 0x7F800000 := by
  by_contra overflow
  rw [if_neg overflow, isFinite, expField_signed neg (by decide)] at h
  exact absurd h (by decide)

/-- A rounded value that is finite is a whole number of last places (D39). -/
theorem units_round {neg : Bool} {num den : Nat} (h : isFinite (round neg num den) = true) :
    units (round neg num den) =
      nearest num (den * 2 ^ ((num / den).log2 - 23)) * 2 ^ ((num / den).log2 - 23) := by
  have finite := lt_infinity_of_isFinite h
  obtain ⟨below, above⟩ := kept_bits (num / den)
  obtain ⟨least, most⟩ := nearest_bounds num (den * 2 ^ ((num / den).log2 - 23))
  rw [← Nat.div_div_eq_div_mul] at least most
  simp only [round, if_pos finite]
  exact units_signed neg (by omega) (by omega) (by omega)

/-- Settles O60: the number of last places is the nearest one to the quotient. -/
theorem roundingIsWithinHalfAUnit : Obligations.RoundingIsWithinHalfAUnit := by
  unfold Obligations.RoundingIsWithinHalfAUnit
  intro neg num den hden h
  have half := nearest_within_half num (d := den * 2 ^ ((num / den).log2 - 23)) (by positivity)
  rw [units_round h, mul_assoc, mul_comm (2 ^ _) den]
  exact half

end Binary32

namespace Client

/-- A sample is the big-endian number of its two bytes, less 65536 where the sign bit is set (R187). -/
theorem sample_eq (hi lo : Byte) :
    sample hi lo = if hi.toNat < 128 then (hi.toNat * 256 + lo.toNat : Int)
      else (hi.toNat * 256 + lo.toNat : Int) - 65536 := by
  have low : lo.toNat < 256 := lo.isLt
  rw [sample, BitVec.toInt_eq_toNat_cond, toNat_append_bytes]
  push_cast
  split <;> split <;> omega

/-- Settles O58: two bytes are below 65536, so that the sign bit decides the range. -/
theorem samplesAreBigEndianSigned : Obligations.SamplesAreBigEndianSigned := by
  unfold Obligations.SamplesAreBigEndianSigned
  refine ⟨fun hi lo => ⟨sample_eq hi lo, ?_⟩, by decide, by decide, by decide⟩
  have high : hi.toNat < 256 := hi.isLt
  have low : lo.toNat < 256 := lo.isLt
  rw [sample_eq]
  split <;> omega

/-- Settles O59: the six conversions, evaluated (R188, R189). -/
theorem specBufferConversions : Obligations.SpecBufferConversions := by
  unfold Obligations.SpecBufferConversions
  decide

end Client

end Sys2Proof.Machine
end

section
/-! PROOFS. A command just accepted, with its first call in flight, and the one fault of the model, which belongs to
states without the invariant (R26 to R30, R100, R211 to R213). -/

namespace Sys2Proof.Machine

/-! ### A command just accepted -/

/-- STATUS of a command just accepted: BUSY alone (R25, R26, R213). -/
theorem Status.toWord_accepted (s : Status) : Status.toWord { s.cleared with busy := true } = 1 := by
  show Status.toWord ⟨true, false, false, .none, false⟩ = 1
  decide

/-- The first primitive of a command: the assert, or the one transfer (R105, R110). -/
theorem planOf_prim_startTxn (i : Instr) (s : State) :
    (planOf i).prim (State.startTxn (planOf i).first s) =
      if s.cfg.transport = .framed then .assertCs else firstTransfer i s := by
  cases ht : s.cfg.transport with
  | framed => simp [Plan.prim, State.startTxn_step, ht]
  | addressed => simp [planOf_prim_first ht]

/-- A command that waits for its first return has made one call (R100). -/
theorem calls_accepted {i : Instr} {s : State} (hcfg : s.cfg.wf) (hw : i.wf s.cfg.maxBurst = true) :
    (State.startTxn (planOf i).first (accepted i s)).calls =
      s.trace ++ [⟨if s.cfg.transport = .framed then .assertCs else firstTransfer i s, none⟩] := by
  obtain ⟨-, -, hmax, -⟩ := hcfg
  have legal : decode s.cfg.maxBurst (encode i) = .ok i := decode_encode (by omega) hw
  have calls := State.calls_busy (s := State.startTxn (planOf i).first (accepted i s)) rfl legal
  rw [calls, planOf_prim_startTxn, firstTransfer_accepted]
  rfl

/-- Settles O10: with no event to come the command stays in the state it was accepted in. -/
theorem acceptedCommandIsInFlight : Obligations.AcceptedCommandIsInFlight := by
  unfold Obligations.AcceptedCommandIsInFlight
  intro s i hc hw hi
  have waits : exec i s = .next (State.startTxn (planOf i).first (accepted i s)) := by
    rw [exec_idle hc hw, startCommand_eq_startTxn, hi]
    rfl
  exact ⟨_, waits, rfl, Status.toWord_accepted s.status, rfl, rfl, rfl, rfl, rfl, rfl, rfl, rfl, rfl, hi,
    fun hcfg => calls_accepted hcfg hw⟩

/-! ### No fault -/

theorem bystander_ne_fault (e : Event) (s : State) (f : Fault) : bystander e s ≠ .fault f := by
  cases e <;> exact nofun

/-- A command ends in no fault, whether it is accepted or lost (R24, R211). -/
theorem exec_ne_fault (i : Instr) (s : State) (f : Fault) : exec i s ≠ .fault f := by
  obtain hc | hc := s.idle_or_busy
  · rw [exec_accepts hc]
    exact drive_ne_fault _ _ _ _
  · rw [exec_busy i hc]
    exact nofun

/-- With no event the block waits, IDLE or BUSY (R116, R240). -/
theorem step_no_event {s : State} (hi : s.inputs = []) : step s = .next s := by
  simp only [step, fetch, hi]

theorem eq_of_isCmdWrite {width : Nat} {off : BitVec 6} (h : isCmdWrite width off = true) : width = 32 ∧ off = 0 := by
  simp only [isCmdWrite, definedAccess, Bool.and_eq_true, decide_eq_true_eq] at h
  exact ⟨h.1.1, h.2⟩

/-- The idle block takes a command word, legal or not, or an event that stands beside it: none of them faults. -/
theorem step_idle_ne_fault {s : State} (hc : s.ctl = .idle) (f : Fault) : step s ≠ .fault f := by
  cases hi : s.inputs with
  | nil => simp [step_no_event hi]
  | cons e es =>
    by_cases cmdWrite : ∃ w, e = .hostWrite 32 0 w
    · obtain ⟨w, rfl⟩ := cmdWrite
      cases hd : decode s.cfg.maxBurst w with
      | ok i =>
        rw [step_command hc hi hd]
        exact exec_ne_fault _ _ _
      | error r =>
        rw [step_illegal hc hi hd]
        exact nofun
    · rw [step_bystander hc hi]
      · exact bystander_ne_fault _ _ _
      · rintro width off w rfl
        refine Bool.eq_false_iff.2 fun hw => cmdWrite ⟨w, ?_⟩
        obtain ⟨rfl, rfl⟩ := eq_of_isCmdWrite hw
        rfl

/-- A command in flight whose word is legal takes any event without a fault. -/
theorem step_busy_ne_fault {s : State} {i : Instr} (hc : s.ctl = .busy) (hd : decode s.cfg.maxBurst s.cmd = .ok i)
    (f : Fault) : step s ≠ .fault f := by
  cases hi : s.inputs with
  | nil => simp [step_no_event hi]
  | cons e es =>
    rw [step_lands hc hi hd]
    exact land_ne_fault _ _ _ _

/-- Settles O14: the fault needs a word in `cmd` that is no command while BUSY, and the invariant excludes it. -/
theorem invariantStatesNeverFault : Obligations.InvariantStatesNeverFault := by
  unfold Obligations.InvariantStatesNeverFault
  intro s f h
  obtain hc | hc := s.idle_or_busy
  · exact step_idle_ne_fault hc f
  · obtain ⟨i, inFlight⟩ := h.inFlight hc
    exact step_busy_ne_fault hc inFlight.command f

end Sys2Proof.Machine
end

section
/-! PROOFS. Block reset, idle or in flight, and the command it abandons: a run reaches the reset in the state it was
in without it (R39, R100, R240, R241). -/

namespace Sys2Proof.Machine

/-! ### What block reset leaves -/

@[simp] theorem Status.toWord_reset : Status.reset.toWord = 0 := by decide

/-- An idle block's reset has no write in flight, so the device keeps its registers (R242). -/
theorem State.blockReset_dev_idle {s : State} (hc : s.ctl = .idle) : s.blockReset.dev = s.dev := by
  have noWrite : ¬(s.ctl = .busy ∧ s.phase = .write) := by simp [hc]
  rw [State.blockReset, if_neg noWrite]
  rfl

/-- The call that block reset abandons stays the last one of the trace (R100). -/
theorem trace_of_abandoned {s : State} {i : Instr} (hc : s.ctl = .busy) (hd : decode s.cfg.maxBurst s.cmd = .ok i)
    (es : List Event) :
    (State.abandon ((planOf i).prim { s with inputs := es }) { s with inputs := es }).blockReset.trace = s.calls := by
  rw [State.calls_busy hc hd, State.blockReset_trace, State.abandon_trace, planOf_prim_inputs]

/-- Settles O48: the idle block's reset is the reset alone; in flight the call is abandoned first. -/
theorem blockResetLeavesResetState : Obligations.BlockResetLeavesResetState := by
  unfold Obligations.BlockResetLeavesResetState
  intro s es hi hd
  obtain hc | hc := s.idle_or_busy
  · have trace : (State.blockReset { s with inputs := es }).trace = s.calls := by
      rw [State.calls_idle hc, State.blockReset_trace]
    have dev : (State.blockReset { s with inputs := es }).dev = s.dev := State.blockReset_dev_idle hc
    exact ⟨_, step_bystander hc hi nofun, by simp, by simp, by simp, by simp, by simp, trace, by simp, fun _ => dev⟩
  · obtain ⟨i, hd⟩ := hd hc
    refine ⟨_, step_lands hc hi hd, by simp, by simp, by simp, by simp, by simp, trace_of_abandoned hc hd es, by simp,
      fun idle => ?_⟩
    cases hc.symm.trans idle

/-! ### The events still to come do not matter to what one event does -/

/-- The state with other events to come. -/
def State.withInputs (es : List Event) (s : State) : State := { s with inputs := es }

section
variable (es : List Event) (s : State)

@[simp] theorem State.withInputs_cfg : (s.withInputs es).cfg = s.cfg := rfl
@[simp] theorem State.withInputs_step : (s.withInputs es).step = s.step := rfl
@[simp] theorem State.withInputs_phase : (s.withInputs es).phase = s.phase := rfl
@[simp] theorem State.withInputs_firstErr : (s.withInputs es).firstErr = s.firstErr := rfl

theorem State.heardWrite_withInputs (sure : Bool) (bytes : List Byte) (rep : Reply) :
    (s.withInputs es).heardWrite sure bytes rep = (s.heardWrite sure bytes rep).withInputs es := by
  unfold State.heardWrite
  split
  · split <;> rfl
  · rfl

theorem State.returned_withInputs (pr : Prim) (rep : Reply) :
    (s.withInputs es).returned pr rep = (s.returned pr rep).withInputs es := by
  have wire : (s.withInputs es).wire pr rep = (s.wire pr rep).withInputs es := by
    cases pr with
    | assertCs | releaseCs => cases rep <;> rfl
    | send bytes | addrSend _ bytes => exact s.heardWrite_withInputs es _ bytes rep
    | exchange | addrSendRecv | delayUs => rfl
  rw [State.returned, wire]
  rfl

/-- The transport's answer does not depend on what is to come after it. -/
theorem answered_withInputs {s' : State} {reg : RegAddr} {pr : Prim} {a : Answer} {rep : Reply}
    (h : answered reg pr a s = .ok (rep, s')) :
    answered reg pr a (s.withInputs es) = .ok (rep, s'.withInputs es) := by
  unfold answered at h ⊢
  cases a with
  | err e =>
    simp only at h ⊢
    split at h <;> cases h
    next native => rw [if_pos (by exact native), State.returned_withInputs]
  | okBytes R =>
    simp only at h ⊢
    split at h <;> cases h
    next length => rw [if_pos length, State.returned_withInputs]
  | ok =>
    simp only at h ⊢
    split at h <;> cases h
    next heard =>
      rw [if_pos (by exact heard), State.returned_withInputs]
      rfl
    next unheard =>
      rw [if_neg (by exact unheard), ← State.returned_withInputs]
      rfl

theorem perform_withInputs {s' : State} {reg : RegAddr} {pr : Prim} {e : Event} {rep : Reply}
    (h : perform reg pr e s = .ok (rep, s')) :
    perform reg pr e (s.withInputs es) = .ok (rep, s'.withInputs es) := by
  cases e with
  | clock =>
    simp only [perform] at h ⊢
    split at h <;> cases h
    next delay => rw [if_pos delay, State.returned_withInputs]
  | answer a =>
    simp only [perform] at h ⊢
    split at h
    · cases h
    next delay =>
      rw [if_neg delay]
      exact answered_withInputs es s h
  | hostWrite | hostRead | blockReset | device | otherMaster => cases h

theorem planOf_endTxn_withInputs (i : Instr) :
    (planOf i).endTxn (s.withInputs es) = ((planOf i).endTxn s).withInputs es := by
  unfold Plan.endTxn
  rw [State.withInputs_firstErr]
  cases s.firstErr with
  | none =>
    cases i with
    | setf =>
      simp only [planOf, planSetf, State.withInputs_phase]
      split <;> rfl
    | write | read | reads => rfl
  | some => cases i <;> rfl

theorem planOf_advance_withInputs (i : Instr) (rep : Reply) :
    (planOf i).advance rep (s.withInputs es) = ((planOf i).advance rep s).withInputs es := by
  have unsure : (planOf i).unsureWrite (s.withInputs es) = ((planOf i).unsureWrite s).withInputs es := by
    unfold Plan.unsureWrite
    rw [State.withInputs_phase]
    split <;> rfl
  unfold Plan.advance
  rw [State.withInputs_step, unsure]
  cases s.step with
  | fSettle1 => rfl
  | fSend | fExch | fRelease => cases rep <;> rfl
  | fSettle2 => exact planOf_endTxn_withInputs es s i
  | fAssert =>
    cases rep with
    | ok => rfl
    | err e => exact planOf_endTxn_withInputs es { (planOf i).unsureWrite s with firstErr := some (.chipSelect, e) } i
  | aXfer =>
    cases rep with
    | ok R => exact planOf_endTxn_withInputs es { s with step := .aXfer, rx := R } i
    | err e => exact planOf_endTxn_withInputs es { s with step := .aXfer, firstErr := some (.bus, e) } i

theorem State.blockReset_withInputs : (s.withInputs es).blockReset = s.blockReset.withInputs es := by
  unfold State.blockReset
  by_cases writing : s.ctl = .busy ∧ s.phase = .write
  · rw [if_pos writing, if_pos (by exact writing)]
    rfl
  · rw [if_neg writing, if_neg (by exact writing)]
    rfl

end

/-- One event has the same effect whatever comes after it. -/
theorem land_withInputs (es : List Event) {i : Instr} {e : Event} {s t : State} (h : land (planOf i) e s = .next t) :
    land (planOf i) e (s.withInputs es) = .next (t.withInputs es) := by
  obtain ⟨_, _, _, rfl, rfl⟩ | ⟨_, _, rfl, rfl⟩ | ⟨rfl, rfl⟩ | ⟨_, _, rfl, rfl⟩ | ⟨_, s', hp, rfl⟩ := land_cases h
  · simp only [land]
    split <;> rfl
  · rfl
  · rw [← State.blockReset_withInputs, ← planOf_prim_inputs i es]
    rfl
  · rfl
  · rw [← planOf_prim_inputs i es] at hp
    rw [← planOf_advance_withInputs]
    exact land_of_perform (perform_withInputs es s hp)

/-! ### A run goes on where it was left in flight -/

/-- Where the first events leave the command in flight, the run goes on from there with the events after them. -/
theorem drive_append {i : Instr} {pre : List Event} (rest : List Event) {s t : State}
    (h : drive (planOf i) pre s = .next t) (hb : t.ctl = .busy) :
    drive (planOf i) (pre ++ rest) (s.withInputs (pre ++ rest)) = drive (planOf i) rest (t.withInputs rest) := by
  induction pre generalizing s with
  | nil => cases h; rfl
  | cons e es ih =>
    obtain hc | hc := s.idle_or_busy
    · rw [drive_idle _ _ hc] at h
      cases h
      cases hb.symm.trans hc
    · rw [drive_busy _ _ _ hc] at h
      split at h
      · next u hl =>
        have first := land_withInputs (es ++ rest) hl
        exact (drive_next (s := s.withInputs (e :: es ++ rest)) hc first).trans (ih h)
      · cases h
      · cases h

/-- A run that finds block reset next abandons the call in flight, and takes no event after it. -/
theorem drive_blockReset {p : Plan} {es : List Event} {s : State} (hc : s.ctl = .busy) :
    drive p (.blockReset :: es) s =
      .next (State.abandon (p.prim { s with inputs := es }) { s with inputs := es }).blockReset := by
  rw [drive_next hc rfl, drive_idle _ _ (State.blockReset_ctl _)]

theorem beginCommand_withInputs (i : Instr) (p : Plan) (es : List Event) (s : State) :
    beginCommand i p (s.withInputs es) = (beginCommand i p s).withInputs es := by
  cases legal : i.wf s.cfg.maxBurst with
  | true => simp only [beginCommand, State.withInputs_cfg, legal, if_true]; rfl
  | false => simp only [beginCommand, State.withInputs_cfg, legal]; rfl

/-- A command that finds more events to come runs on from the state in which it waited without them. -/
theorem exec_append {i : Instr} {pre : List Event} (rest : List Event) {s t : State} (hc : s.ctl = .idle)
    (h : exec i { s with inputs := pre } = .next t) (hb : t.ctl = .busy) :
    exec i { s with inputs := pre ++ rest } = drive (planOf i) rest (t.withInputs rest) := by
  rw [exec_accepts (by exact hc)] at h
  rw [exec_accepts (by exact hc), ← drive_append rest h hb, ← beginCommand_withInputs]
  rfl

/-- A command that a run leaves in flight is the one the run began, and its word is in `cmd`. -/
theorem decode_of_exec_busy {i : Instr} {s t : State} (hcfg : s.cfg.wf) (hc : s.ctl = .idle)
    (h : exec i s = .next t) (hb : t.ctl = .busy) : decode t.cfg.maxBurst t.cmd = .ok i := by
  obtain ⟨-, -, hmax, -⟩ := hcfg
  cases hw : i.wf s.cfg.maxBurst with
  | false =>
    rw [exec_illformed hc hw] at h
    cases h
    cases hb
  | true =>
    have legal : decode s.cfg.maxBurst (encode i) = .ok i := decode_encode (by omega) hw
    rw [exec_accepts hc] at h
    exact drive_keeps (P := InFlightIs i) (fun e es u v busy cmd hl => inFlightIs_land hl (cmd busy)) h
      (inFlightIs_beginCommand _ legal) hb

/-- Settles O49: the run meets the reset in the state in which it waited without it, and ends there. -/
theorem resetAbandonsTheCommand : Obligations.ResetAbandonsTheCommand := by
  unfold Obligations.ResetAbandonsTheCommand
  intro s t₁ i pre post hcfg hc h hb
  have legal : decode t₁.cfg.maxBurst t₁.cmd = .ok i :=
    decode_of_exec_busy (s := { s with inputs := pre }) hcfg hc h hb
  have run := (exec_append (.blockReset :: post) hc h hb).trans (drive_blockReset hb)
  exact ⟨_, run, by simp, by simp, by simp, trace_of_abandoned hb legal post, by simp⟩

end Sys2Proof.Machine
end
